-- ==== Sys2Proof/Word.lean ====
section
/-!
DEFINITION. The word types of CORE (spec/00_scope.md R4): nothing in this machine is signed (R7).
-/

namespace Sys2Proof

/-- A byte: a general register, a timer, a memory cell, the ALU's operands and results (R4, XLEN = TLEN = 8). -/
abbrev Byte := BitVec 8

/-- A 16-bit word: `PC`, `I`, a stack entry, an opcode (R4, PCLEN = ILEN = OPLEN = 16). -/
abbrev Word := BitVec 16

/-- A 4-bit field of an opcode (Glossary, "Nibble"). -/
abbrev Nibble := BitVec 4

/-- The 12-bit address operand `nnn` (R62). -/
abbrev Addr := BitVec 12

/-- The number of a general register, 0 to 15 (spec/10_state.md R10). -/
abbrev Reg := Fin 16

/-- Register 15, which doubles as the flag register VF (spec/10_state.md R11). -/
def regVF : Reg := 15

end Sys2Proof
end

