-- ==== Sys2Proof/Machine/Flags.lean ====
section
/-!
DEFINITION. The values VF receives (the table of spec/10_state.md R11), computed from the operands read before any
write (R12).
-/

namespace Sys2Proof.Machine

/-- A flag as a register value: 1 or 0. -/
def flagByte (c : Bool) : Byte := if c then 0x01#8 else 0x00#8

/-- Carry out of the 8-bit sum: `a + b >= 256` (spec/41_alu.md R106). -/
def carry (a b : Byte) : Byte := flagByte (decide (256 ≤ a.toNat + b.toNat))

/-- Not borrow of the difference `a - b`: 0 if `a < b`, else 1 (R107, R109). -/
def notBorrow (a b : Byte) : Byte := flagByte (!decide (a.toNat < b.toNat))

/-- The bit `SHR` shifts out: bit 0 (R108). -/
def lsbFlag (a : Byte) : Byte := flagByte (a.getLsbD 0)

/-- The bit `SHL` shifts out: bit 7 (R110). -/
def msbFlag (a : Byte) : Byte := flagByte (a.getLsbD 7)

/-- VF after a draw: 1 on collision, otherwise the parameter `DRAW_NOCOLLISION_FLAG` (spec/43_display.md R142). -/
def drawFlag (noCollision collided : Bool) : Byte := flagByte (collided || noCollision)

end Sys2Proof.Machine
end

