-- ==== Sys2Proof/Config.lean ====
section
/-!
DEFINITION. What is fixed for the machine: the sizes of spec/00_scope.md R4, the named parameters of R5 at the
value the spec takes, and the free input `draw8()`. Every operation that rests on a parameter takes it as an
argument, so both readings are modelled, and the machine uses the value named here.
-/

namespace Sys2Proof.Config

/-- MEM_SIZE (R4): the memory's size in bytes; addresses are 0x000 to 0xFFF. -/
def memSize : Nat := 4096

/-- PROG_BASE (R4): where LOAD copies to, and the reset value of `PC`. -/
def progBase : Nat := 0x200

/-- PROG_MAX (R4): the largest program image LOAD accepts. -/
def progMax : Nat := 3584

/-- GLYPH_BYTES (R4): the glyph table's size; it starts at address 0x000. -/
def glyphBytes : Nat := 80

/-- Parameter `FONT` (R5, spec/10_state.md R31; UNVERIFIED, log entry 2): the 80 bytes of the glyph table, five a
digit, top row first. D0 gives the table's place and size and none of its bytes. -/
def font : List Byte :=
  [0xF0, 0x90, 0x90, 0x90, 0xF0] ++ [0x20, 0x60, 0x20, 0x20, 0x70] ++
  [0xF0, 0x10, 0xF0, 0x80, 0xF0] ++ [0xF0, 0x10, 0xF0, 0x10, 0xF0] ++
  [0x90, 0x90, 0xF0, 0x10, 0x10] ++ [0xF0, 0x80, 0xF0, 0x10, 0xF0] ++
  [0xF0, 0x80, 0xF0, 0x90, 0xF0] ++ [0xF0, 0x10, 0x20, 0x40, 0x40] ++
  [0xF0, 0x90, 0xF0, 0x90, 0xF0] ++ [0xF0, 0x90, 0xF0, 0x10, 0xF0] ++
  [0xF0, 0x90, 0xF0, 0x90, 0x90] ++ [0xE0, 0x90, 0xE0, 0x90, 0xE0] ++
  [0xF0, 0x80, 0x80, 0x80, 0xF0] ++ [0xE0, 0x90, 0x90, 0x90, 0xE0] ++
  [0xF0, 0x80, 0xF0, 0x80, 0xF0] ++ [0xF0, 0x80, 0xF0, 0x80, 0x80]

/-- Parameter `DRAW_NOCOLLISION_FLAG` (R5, spec/43_display.md R142, C2; UNVERIFIED, log entry 3): whether VF is 1
after a draw without collision. The spec's value is 1. -/
def drawNoCollisionFlag : Bool := true

/-- The two readings of `LD F, Vx` (spec/42_index_memory.md R122, C1). -/
inductive Fx29Mode where
  /-- `I = 5 * (V[x] & 0x0F)`: the glyph address of the opcode table. -/
  | times5
  /-- `I = V[x] & 0x05`: the repository's literal code. -/
  | and5
  deriving DecidableEq, Repr

/-- Parameter `FX29_MODE` (R5, R122; UNVERIFIED, log entry 4). The spec's value is TIMES5. -/
def fx29Mode : Fx29Mode := .times5

/-- Parameter `SKNP_LOW` (R5, spec/30_encoding.md R64, C8; UNVERIFIED, log entry 5): the lowest nibble of
`SKNP Vx`. The spec's value is 0xE. -/
def sknpLow : Nibble := 0xE

/-- The free input `draw8()` (R5, spec/41_alu.md R112, spec/45_host_commands.md R179; log entry 6): the byte the
random source presents to the `k`-th draw. It has no body: nothing is known of any draw. -/
opaque draw8 : Nat → Byte

end Sys2Proof.Config
end

