-- ==== Sys2Proof/Syntax.lean ====
section
/-!
DEFINITION. The 35 instructions of spec/30_encoding.md R63, one constructor for each row of the opcode table, in
the table's order. Every field has exactly the width of its operand (R62), so every term is an instruction.
-/

namespace Sys2Proof

/-- An instruction with its operands: `x`, `y` register numbers, `nn` an 8-bit immediate, `nnn` a 12-bit address,
`n` a row count (R6, R62). -/
inductive Instr where
  /-- `NOP` (R80). -/
  | nop
  /-- `CLS` (R140). -/
  | cls
  /-- `RET` (R81). -/
  | ret
  /-- `JP nnn` (R82). -/
  | jp (nnn : Addr)
  /-- `CALL nnn` (R83). -/
  | call (nnn : Addr)
  /-- `SE Vx, nn` (R84). -/
  | seImm (x : Reg) (nn : Byte)
  /-- `SNE Vx, nn` (R85). -/
  | sneImm (x : Reg) (nn : Byte)
  /-- `SE Vx, Vy` (R86). -/
  | seReg (x y : Reg)
  /-- `LD Vx, nn` (R100). -/
  | ldImm (x : Reg) (nn : Byte)
  /-- `ADD Vx, nn` (R101). -/
  | addImm (x : Reg) (nn : Byte)
  /-- `LD Vx, Vy` (R102). -/
  | ldReg (x y : Reg)
  /-- `OR Vx, Vy` (R103). -/
  | orReg (x y : Reg)
  /-- `AND Vx, Vy` (R104). -/
  | andReg (x y : Reg)
  /-- `XOR Vx, Vy` (R105). -/
  | xorReg (x y : Reg)
  /-- `ADD Vx, Vy` (R106). -/
  | addReg (x y : Reg)
  /-- `SUB Vx, Vy` (R107). -/
  | subReg (x y : Reg)
  /-- `SHR Vx` (R108); `y` is decoded and not used (R62). -/
  | shr (x y : Reg)
  /-- `SUBN Vx, Vy` (R109). -/
  | subnReg (x y : Reg)
  /-- `SHL Vx` (R110); `y` is decoded and not used (R62). -/
  | shl (x y : Reg)
  /-- `SNE Vx, Vy` (R87). -/
  | sneReg (x y : Reg)
  /-- `LD I, nnn` (R120). -/
  | ldI (nnn : Addr)
  /-- `JP V0, nnn` (R88). -/
  | jpV0 (nnn : Addr)
  /-- `RND Vx, nn` (R112). -/
  | rnd (x : Reg) (nn : Byte)
  /-- `DRW Vx, Vy, n` (R142). -/
  | drw (x y : Reg) (n : Nibble)
  /-- `SKP Vx` (R150). -/
  | skp (x : Reg)
  /-- `SKNP Vx` (R151). -/
  | sknp (x : Reg)
  /-- `LD Vx, DT` (R153). -/
  | ldFromDT (x : Reg)
  /-- `LD Vx, K` (R152). -/
  | ldKey (x : Reg)
  /-- `LD DT, Vx` (R154). -/
  | ldToDT (x : Reg)
  /-- `LD ST, Vx` (R155). -/
  | ldToST (x : Reg)
  /-- `ADD I, Vx` (R121). -/
  | addI (x : Reg)
  /-- `LD F, Vx` (R122). -/
  | ldF (x : Reg)
  /-- `LD B, Vx` (R123). -/
  | ldB (x : Reg)
  /-- `LD [I], Vx` (R124). -/
  | storeRange (x : Reg)
  /-- `LD Vx, [I]` (R125). -/
  | loadRange (x : Reg)
  deriving DecidableEq, Repr

end Sys2Proof
end

