-- ==== Sys2Proof/WellFormed.lean ====
section
/-!
DEFINITION. Which 16-bit words are instructions: the opcode map of spec/30_encoding.md R63 as a table of masks and
matches, written beside the decoder and independent of it. An `Instr` needs no check of its own, since the type of
each field is its operand's range (R62); what can be ill-formed in this machine is a word (R67).
-/

namespace Sys2Proof

/-- One row of the opcode map (R63): its number, its mnemonic as spec/opcode_table.json spells it, the bits a word
of the row has under the mask, and the mask. -/
structure OpcodeRow where
  number : Nat
  mnemonic : String
  pattern : Word
  mask : Word
  deriving DecidableEq, Repr

/-- "a word `op` selects the row when `op & mask = match`" (R63). -/
def OpcodeRow.selects (r : OpcodeRow) (op : Word) : Bool := op &&& r.mask == r.pattern

/-- The 35 rows of R63, with the low nibble of `SKNP Vx` as a parameter (R64). -/
def opcodeTableFor (low : Nibble) : List OpcodeRow :=
  [⟨1, "NOP", 0x0000#16, 0xFFFF#16⟩,
   ⟨2, "CLS", 0x00E0#16, 0xFFFF#16⟩,
   ⟨3, "RET", 0x00EE#16, 0xFFFF#16⟩,
   ⟨4, "JP_nnn", 0x1000#16, 0xF000#16⟩,
   ⟨5, "CALL_nnn", 0x2000#16, 0xF000#16⟩] ++
  [⟨6, "SE_Vx__nn", 0x3000#16, 0xF000#16⟩,
   ⟨7, "SNE_Vx__nn", 0x4000#16, 0xF000#16⟩,
   ⟨8, "SE_Vx__Vy", 0x5000#16, 0xF00F#16⟩,
   ⟨9, "LD_Vx__nn", 0x6000#16, 0xF000#16⟩,
   ⟨10, "ADD_Vx__nn", 0x7000#16, 0xF000#16⟩] ++
  [⟨11, "LD_Vx__Vy", 0x8000#16, 0xF00F#16⟩,
   ⟨12, "OR_Vx__Vy", 0x8001#16, 0xF00F#16⟩,
   ⟨13, "AND_Vx__Vy", 0x8002#16, 0xF00F#16⟩,
   ⟨14, "XOR_Vx__Vy", 0x8003#16, 0xF00F#16⟩,
   ⟨15, "ADD_Vx__Vy", 0x8004#16, 0xF00F#16⟩] ++
  [⟨16, "SUB_Vx__Vy", 0x8005#16, 0xF00F#16⟩,
   ⟨17, "SHR_Vx", 0x8006#16, 0xF00F#16⟩,
   ⟨18, "SUBN_Vx__Vy", 0x8007#16, 0xF00F#16⟩,
   ⟨19, "SHL_Vx", 0x800E#16, 0xF00F#16⟩,
   ⟨20, "SNE_Vx__Vy", 0x9000#16, 0xF00F#16⟩] ++
  [⟨21, "LD_I__nnn", 0xA000#16, 0xF000#16⟩,
   ⟨22, "JP_V0__nnn", 0xB000#16, 0xF000#16⟩,
   ⟨23, "RND_Vx__nn", 0xC000#16, 0xF000#16⟩,
   ⟨24, "DRW_Vx__Vy__n", 0xD000#16, 0xF000#16⟩,
   ⟨25, "SKP_Vx", 0xE09E#16, 0xF0FF#16⟩] ++
  [⟨26, "SKNP_Vx", 0xE0A#12 ++ low, 0xF0FF#16⟩,
   ⟨27, "LD_Vx__DT", 0xF007#16, 0xF0FF#16⟩,
   ⟨28, "LD_Vx__K", 0xF00A#16, 0xF0FF#16⟩,
   ⟨29, "LD_DT__Vx", 0xF015#16, 0xF0FF#16⟩,
   ⟨30, "LD_ST__Vx", 0xF018#16, 0xF0FF#16⟩] ++
  [⟨31, "ADD_I__Vx", 0xF01E#16, 0xF0FF#16⟩,
   ⟨32, "LD_F__Vx", 0xF029#16, 0xF0FF#16⟩,
   ⟨33, "LD_B__Vx", 0xF033#16, 0xF0FF#16⟩,
   ⟨34, "LD__I___Vx", 0xF055#16, 0xF0FF#16⟩,
   ⟨35, "LD_Vx___I", 0xF065#16, 0xF0FF#16⟩]

/-- The opcode map at the value of `SKNP_LOW` the spec takes (R63, R64). -/
def opcodeTable : List OpcodeRow := opcodeTableFor Config.sknpLow

/-- The word is an instruction: it selects some row of the map. Every other word is an unrecognized opcode (R67). -/
def wellFormedWord (op : Word) : Bool := opcodeTable.any (fun r => r.selects op)

/-- The number of the instruction's row in the opcode map (R63). -/
def Instr.row : Instr → Nat
  | .nop => 1
  | .cls => 2
  | .ret => 3
  | .jp _ => 4
  | .call _ => 5
  | .seImm _ _ => 6
  | .sneImm _ _ => 7
  | .seReg _ _ => 8
  | .ldImm _ _ => 9
  | .addImm _ _ => 10
  | .ldReg _ _ => 11
  | .orReg _ _ => 12
  | .andReg _ _ => 13
  | .xorReg _ _ => 14
  | .addReg _ _ => 15
  | .subReg _ _ => 16
  | .shr _ _ => 17
  | .subnReg _ _ => 18
  | .shl _ _ => 19
  | .sneReg _ _ => 20
  | .ldI _ => 21
  | .jpV0 _ => 22
  | .rnd _ _ => 23
  | .drw _ _ _ => 24
  | .skp _ => 25
  | .sknp _ => 26
  | .ldFromDT _ => 27
  | .ldKey _ => 28
  | .ldToDT _ => 29
  | .ldToST _ => 30
  | .addI _ => 31
  | .ldF _ => 32
  | .ldB _ => 33
  | .storeRange _ => 34
  | .loadRange _ => 35

end Sys2Proof
end

