-- ==== Sys2Proof/Decode.lean ====
section
/-!
DEFINITION. The instruction decoder (spec/30_encoding.md R60 to R67), total on every word and every list of bytes,
and the encoder, written from the same patterns.
-/

namespace Sys2Proof

/-! ## Fields of an opcode (spec/00_scope.md R6, spec/30_encoding.md R62) -/

/-- The register named by a nibble (R62). -/
def regOf (b : Nibble) : Reg := ⟨b.toNat, b.isLt⟩

/-- The nibble that names a register. -/
def nibOf (x : Reg) : Nibble := BitVec.ofNat 4 x.val

/-- `d1 = op[15:12]`, the highest nibble. -/
def opD1 (op : Word) : Nibble := op.extractLsb' 12 4

/-- `x = d2 = op[11:8]`. -/
def opX (op : Word) : Reg := regOf (op.extractLsb' 8 4)

/-- `y = d3 = op[7:4]`. -/
def opY (op : Word) : Reg := regOf (op.extractLsb' 4 4)

/-- `n = d4 = op[3:0]`, the lowest nibble. -/
def opN (op : Word) : Nibble := op.extractLsb' 0 4

/-- `nn = op[7:0]`, the low byte. -/
def opNN (op : Word) : Byte := op.extractLsb' 0 8

/-- `nnn = op[11:0]`, an address operand. -/
def opNNN (op : Word) : Addr := op.extractLsb' 0 12

/-- The first byte of a word in memory: the high one (spec/20_memory.md R40). -/
def highByte (op : Word) : Byte := op.extractLsb' 8 8

/-- The second byte of a word in memory: the low one (R40). -/
def lowByte (op : Word) : Byte := op.extractLsb' 0 8

/-- The word two bytes form, the first the high one (R40: `MemRead(pc0,1) || MemRead(pc0+1,1)`). -/
def wordOf (hi lo : Byte) : Word := hi ++ lo

/-! ## The decoder -/

/-- Why the decoder refuses. -/
inductive DecodeReject where
  /-- The word selects no row of the opcode map (R67); STEP then raises UnrecognizedOpcode. -/
  | unrecognizedOpcode (op : Word)
  /-- Fewer than the two bytes of an instruction are given (R60). -/
  | truncated
  deriving DecidableEq, Repr

/-- The decoder's answer. -/
abbrev DecodeResult := Except DecodeReject Instr

/-- The arm "any other pattern" (R67). -/
def reject (op : Word) : DecodeResult := .error (.unrecognizedOpcode op)

/-- Highest nibble 0: the three fixed words (R63 rows 1 to 3). -/
def decode0 (op : Word) : DecodeResult :=
  if op = 0x0000#16 then .ok .nop
  else if op = 0x00E0#16 then .ok .cls
  else if op = 0x00EE#16 then .ok .ret
  else reject op

/-- Highest nibbles 5 and 9: `d4` must be 0 (R66). -/
def decodeXY0 (op : Word) (i : Instr) : DecodeResult :=
  if opN op = 0x0#4 then .ok i else reject op

/-- Highest nibble 8: the register-to-register ALU group, selected by `d4` (R63 rows 11 to 19). -/
def decode8 (op : Word) : DecodeResult :=
  match opN op with
  | 0x0#4 => .ok (.ldReg (opX op) (opY op))
  | 0x1#4 => .ok (.orReg (opX op) (opY op))
  | 0x2#4 => .ok (.andReg (opX op) (opY op))
  | 0x3#4 => .ok (.xorReg (opX op) (opY op))
  | 0x4#4 => .ok (.addReg (opX op) (opY op))
  | 0x5#4 => .ok (.subReg (opX op) (opY op))
  | 0x6#4 => .ok (.shr (opX op) (opY op))
  | 0x7#4 => .ok (.subnReg (opX op) (opY op))
  | 0xE#4 => .ok (.shl (opX op) (opY op))
  | _ => reject op

/-- Highest nibble E: the key tests, selected by the low byte (R63 rows 25, 26); `low` is `SKNP_LOW` (R64). -/
def decodeE (low : Nibble) (op : Word) : DecodeResult :=
  if opNN op = 0x9E#8 then .ok (.skp (opX op))
  else if opNN op = 0xA#4 ++ low then .ok (.sknp (opX op))
  else reject op

/-- Highest nibble F: selected by the low byte (R63 rows 27 to 35, R65). -/
def decodeF (op : Word) : DecodeResult :=
  match opNN op with
  | 0x07#8 => .ok (.ldFromDT (opX op))
  | 0x0A#8 => .ok (.ldKey (opX op))
  | 0x15#8 => .ok (.ldToDT (opX op))
  | 0x18#8 => .ok (.ldToST (opX op))
  | 0x1E#8 => .ok (.addI (opX op))
  | 0x29#8 => .ok (.ldF (opX op))
  | 0x33#8 => .ok (.ldB (opX op))
  | 0x55#8 => .ok (.storeRange (opX op))
  | 0x65#8 => .ok (.loadRange (opX op))
  | _ => reject op

/-- The decoder, with `SKNP_LOW` as a parameter (R61, R63, R64). -/
def decodeWith (low : Nibble) (op : Word) : DecodeResult :=
  match opD1 op with
  | 0x0#4 => decode0 op
  | 0x1#4 => .ok (.jp (opNNN op))
  | 0x2#4 => .ok (.call (opNNN op))
  | 0x3#4 => .ok (.seImm (opX op) (opNN op))
  | 0x4#4 => .ok (.sneImm (opX op) (opNN op))
  | 0x5#4 => decodeXY0 op (.seReg (opX op) (opY op))
  | 0x6#4 => .ok (.ldImm (opX op) (opNN op))
  | 0x7#4 => .ok (.addImm (opX op) (opNN op))
  | 0x8#4 => decode8 op
  | 0x9#4 => decodeXY0 op (.sneReg (opX op) (opY op))
  | 0xA#4 => .ok (.ldI (opNNN op))
  | 0xB#4 => .ok (.jpV0 (opNNN op))
  | 0xC#4 => .ok (.rnd (opX op) (opNN op))
  | 0xD#4 => .ok (.drw (opX op) (opY op) (opN op))
  | 0xE#4 => decodeE low op
  | _ => decodeF op

/-- The decoder of this machine (R63), at the spec's value of `SKNP_LOW`. -/
def decode (op : Word) : DecodeResult := decodeWith Config.sknpLow op

/-- Decoding a list of bytes: the two bytes of one instruction, high byte first, and the bytes after it (R40, R60). -/
def decodeBytes : List Byte → Except DecodeReject (Instr × List Byte)
  | hi :: lo :: rest =>
    match decode (wordOf hi lo) with
    | .ok i => .ok (i, rest)
    | .error e => .error e
  | _ => .error .truncated

/-- The instruction the decoder reads from the bits `w` of a row of spec/opcode_table.json: one 16-bit word, laid
out high byte first. -/
def decodeTableWord (nbits w : Nat) : Option Instr :=
  match decodeBytes [highByte (BitVec.ofNat 16 (w % 2 ^ nbits)), lowByte (BitVec.ofNat 16 (w % 2 ^ nbits))] with
  | .ok (i, _) => some i
  | .error _ => none

/-! ## The encoder -/

/-- Format `XNN` (R61). -/
def encodeXNN (d1 : Nibble) (x : Reg) (nn : Byte) : Word := d1 ++ nibOf x ++ nn

/-- Formats `XY` and `XYN` (R61). -/
def encodeXYN (d1 : Nibble) (x y : Reg) (d4 : Nibble) : Word := d1 ++ nibOf x ++ nibOf y ++ d4

/-- Format `NNN` (R61). -/
def encodeNNN (d1 : Nibble) (nnn : Addr) : Word := d1 ++ nnn

/-- The encoder, with `SKNP_LOW` as a parameter (R63, R64). Format `X` is `XNN` with the low byte fixed. -/
def encodeWith (low : Nibble) : Instr → Word
  | .nop => 0x0000#16
  | .cls => 0x00E0#16
  | .ret => 0x00EE#16
  | .jp nnn => encodeNNN 0x1#4 nnn
  | .call nnn => encodeNNN 0x2#4 nnn
  | .seImm x nn => encodeXNN 0x3#4 x nn
  | .sneImm x nn => encodeXNN 0x4#4 x nn
  | .seReg x y => encodeXYN 0x5#4 x y 0x0#4
  | .ldImm x nn => encodeXNN 0x6#4 x nn
  | .addImm x nn => encodeXNN 0x7#4 x nn
  | .ldReg x y => encodeXYN 0x8#4 x y 0x0#4
  | .orReg x y => encodeXYN 0x8#4 x y 0x1#4
  | .andReg x y => encodeXYN 0x8#4 x y 0x2#4
  | .xorReg x y => encodeXYN 0x8#4 x y 0x3#4
  | .addReg x y => encodeXYN 0x8#4 x y 0x4#4
  | .subReg x y => encodeXYN 0x8#4 x y 0x5#4
  | .shr x y => encodeXYN 0x8#4 x y 0x6#4
  | .subnReg x y => encodeXYN 0x8#4 x y 0x7#4
  | .shl x y => encodeXYN 0x8#4 x y 0xE#4
  | .sneReg x y => encodeXYN 0x9#4 x y 0x0#4
  | .ldI nnn => encodeNNN 0xA#4 nnn
  | .jpV0 nnn => encodeNNN 0xB#4 nnn
  | .rnd x nn => encodeXNN 0xC#4 x nn
  | .drw x y n => encodeXYN 0xD#4 x y n
  | .skp x => encodeXNN 0xE#4 x 0x9E#8
  | .sknp x => encodeXNN 0xE#4 x (0xA#4 ++ low)
  | .ldFromDT x => encodeXNN 0xF#4 x 0x07#8
  | .ldKey x => encodeXNN 0xF#4 x 0x0A#8
  | .ldToDT x => encodeXNN 0xF#4 x 0x15#8
  | .ldToST x => encodeXNN 0xF#4 x 0x18#8
  | .addI x => encodeXNN 0xF#4 x 0x1E#8
  | .ldF x => encodeXNN 0xF#4 x 0x29#8
  | .ldB x => encodeXNN 0xF#4 x 0x33#8
  | .storeRange x => encodeXNN 0xF#4 x 0x55#8
  | .loadRange x => encodeXNN 0xF#4 x 0x65#8

/-- The word of an instruction of this machine (R63), at the spec's value of `SKNP_LOW`. -/
def encode (i : Instr) : Word := encodeWith Config.sknpLow i

end Sys2Proof
end

