-- ==== Sys2Proof/Machine/State.lean ====
section
/-!
DEFINITION. The state of CORE (spec/10_state.md R10 to R23) as plain data, its value after reset (R30), and the
reasons a step could stop.
-/

namespace Sys2Proof.Machine

/-- The memory `MEM` (R22) as the list of the bytes that differ from their reset contents, in strictly rising order
of address (log entry 11). -/
abbrev Memory := List Host.Cell

/-- The framebuffer `FB` (R21): 32 rows of 64 cells, `FB[y][x]`, `true` lit. -/
abbrev FrameBuffer := Vector (Vector Bool 64) 32

/-- The cause held in the fault record (R18): none, or one of the five a STEP can raise
(spec/60_exceptions.md R190). `ProgramTooLarge` is never stored here. -/
inductive FaultCause where
  /-- Code 0: the reset value. -/
  | none
  /-- Code 1: the fetched word is no instruction (R191). -/
  | unrecognizedOpcode
  /-- Code 2: an address above 0xFFF would be read or written (R192). -/
  | memoryOutOfBounds
  /-- Code 3: `CALL nnn` with `SP = 16` (R193). -/
  | stackOverflow
  /-- Code 4: `RET` with `SP = 0` (R194). -/
  | stackUnderflow
  /-- Code 6: `SKP Vx` or `SKNP Vx` with `V[x] > 15` (R195). -/
  | keyIndexOutOfRange
  deriving DecidableEq, Repr

/-- The fault record `FAULT = (cause, pc, opcode)` (R18). -/
structure FaultRecord where
  /-- The cause. -/
  cause : FaultCause
  /-- The address of the faulting instruction. -/
  pc : Word
  /-- The fetched word, or 0x0000 when the fetch itself faulted. -/
  opcode : Word
  deriving DecidableEq, Repr

/-- The state of CORE. -/
structure State where
  /-- `V[0]` to `V[15]` (R10); `V[15]` is VF (R11). -/
  v : Vector Byte 16
  /-- `PC` (R13, R14). -/
  pc : Word
  /-- `I`, the index register (R15). -/
  i : Word
  /-- `STK[0]` to `STK[15]` (R16). -/
  stk : Vector Word 16
  /-- `SP`, the number of entries in use, 0 to 16 (R16, C4; log entry 14). -/
  sp : Fin 17
  /-- `DT`, the delay timer (R17). -/
  dt : Byte
  /-- `ST`, the sound timer (R17). -/
  st : Byte
  /-- `HALT` (R18). -/
  halt : Bool
  /-- `FAULT` (R18). -/
  fault : FaultRecord
  /-- `K[0]` to `K[15]`, `true` pressed (R20). -/
  keys : Vector Bool 16
  /-- `FB` (R21). -/
  fb : FrameBuffer
  /-- `MEM` (R22). -/
  mem : Memory
  /-- The MODEL's own field, not the spec's: how many draws `RND` has taken from the random source (R179; log
  entries 6 and 7). The next draw is `Config.draw8 draws`. -/
  draws : Nat
  deriving DecidableEq, Repr

/-- The reset value of `FAULT` (R30). -/
def FaultRecord.none : FaultRecord := ⟨.none, 0x0000#16, 0x0000#16⟩

/-- The state after power-on (R30, R221). The values D0 does not state are the spec's decision D2 (log entry 1).
`mem` lists nothing: every byte has its reset contents, `FONT` at 0x000 to 0x04F and 0x00 above. -/
def State.reset : State where
  v := Vector.replicate 16 0x00#8
  pc := 0x0200#16
  i := 0x0000#16
  stk := Vector.replicate 16 0x0000#16
  sp := 0
  dt := 0x00#8
  st := 0x00#8
  halt := false
  fault := FaultRecord.none
  keys := Vector.replicate 16 false
  fb := Vector.replicate 32 (Vector.replicate 64 false)
  mem := []
  draws := 0

/-- Reasons for a step to stop the MODEL with a fault. There is none: a fault of this hardware latches `HALT` and
writes `FAULT`, which is a next state (R196, R197; `takeFault` in Machine/Ops.lean; log entry 9). -/
inductive Fault where
  deriving DecidableEq, Repr

/-- Reasons for a step to refuse. -/
inductive Refusal where
  /-- Raised only by an arm of `exec` for an instruction that has no meaning yet. No arm raises it now. Safe: no
  claim about a next state can be proved of a refused step. -/
  | notModelled (mnemonic : String)
  deriving DecidableEq, Repr

/-- What a step or a meaning answers. -/
abbrev Result := Host.Outcome State Fault Refusal

end Sys2Proof.Machine
end

