-- ==== Sys2Proof/Machine/Ops.lean ====
section
/-!
DEFINITION. The named operations over registers, memory, stack, framebuffer and keypad, taking a fault, and the
fetch of an instruction. Nothing else in the model reads or writes the state.
-/

namespace Sys2Proof.Machine

/-! ## General registers (spec/10_state.md R10) -/

/-- Read `V[x]`. -/
def State.getV (s : State) (x : Reg) : Byte := s.v[x.val]

/-- `V[x] <- b`. -/
def State.setV (s : State) (x : Reg) (b : Byte) : State := { s with v := s.v.set x.val b }

/-- Write VF, the flag register, as an instruction's last register write (R11, R12). -/
def State.setFlag (s : State) (b : Byte) : State := s.setV regVF b

/-! ## Program counter and index register (R13 to R15) -/

/-- `PC <- w`: no masking and no check (R14). -/
def State.setPc (s : State) (w : Word) : State := { s with pc := w }

/-- The advance of a fetch, `PC <- pc0 + 2` (spec/45_host_commands.md R173; modulo 2^16 in states no run reaches, log
entry 15). -/
def State.advance (s : State) : State := s.setPc (s.pc + 2)

/-- To skip is to add 2 to `PC` once more (spec/40_control.md R89). -/
def State.skipIf (s : State) (c : Bool) : State := if c then s.setPc (s.pc + 2) else s

/-- `I <- w`, all 16 bits kept (R15). -/
def State.setI (s : State) (w : Word) : State := { s with i := w }

/-! ## Timers (R17) -/

/-- `DT <- b`. -/
def State.setDT (s : State) (b : Byte) : State := { s with dt := b }

/-- `ST <- b`. -/
def State.setST (s : State) (b : Byte) : State := { s with st := b }

/-- One tick of a timer: down by 1, floored at 0 (spec/60_exceptions.md R203). -/
def timerTick (b : Byte) : Byte := if b = 0x00#8 then b else b - 1

/-! ## Call stack (R16) -/

/-- Push: write `STK[SP]`, then `SP <- SP + 1`; nothing where `SP = 16` (spec/40_control.md R83). -/
def State.push? (s : State) (w : Word) : Option State :=
  if h : s.sp.val < 16 then
    some { s with stk := s.stk.set s.sp.val w h, sp := ⟨s.sp.val + 1, by omega⟩ }
  else none

/-- Pop: `SP <- SP - 1`, then read `STK[SP]`; nothing where `SP = 0`. The entry keeps its bits (R16, R81). -/
def State.pop? (s : State) : Option (Word × State) :=
  if h : 0 < s.sp.val then
    some (s.stk[s.sp.val - 1]'(by have := s.sp.isLt; omega),
      { s with sp := ⟨s.sp.val - 1, by have := s.sp.isLt; omega⟩ })
  else none

/-! ## Memory (spec/10_state.md R22, spec/20_memory.md) -/

/-- What an address the list does not hold reads as: the reset contents (R30, R31; log entry 11). -/
def Memory.unlisted (a : Nat) : Byte := if a < Config.glyphBytes then Config.font.getD a 0x00#8 else 0x00#8

/-- The byte at an address. Reading has no side effect (R47). -/
def Memory.read : Memory → Nat → Byte
  | [], a => Memory.unlisted a
  | (b, w) :: m, a => if b = a then w else Memory.read m a

/-- Put a cell before the first one of a higher address. -/
def Memory.insert : Memory → Nat → Byte → Memory
  | [], a, v => [(a, v)]
  | (b, w) :: m, a, v => if a < b then (a, v) :: (b, w) :: m else (b, w) :: Memory.insert m a v

/-- Write one byte: the old cell goes, and a new one is listed unless the value is what an unlisted address reads
as. -/
def Memory.write (m : Memory) (a : Nat) (v : Byte) : Memory :=
  if v = Memory.unlisted a then m.filter (fun c => c.1 != a)
  else Memory.insert (m.filter (fun c => c.1 != a)) a v

/-- Read `n` bytes from `a` up (R41, R47). -/
def Memory.readBytes (m : Memory) (a : Nat) : Nat → List Byte
  | 0 => []
  | n + 1 => Memory.read m a :: Memory.readBytes m (a + 1) n

/-- Write bytes to ascending addresses from `a` up (R41, R47). -/
def Memory.writeBytes (m : Memory) (a : Nat) : List Byte → Memory
  | [] => m
  | b :: bs => Memory.writeBytes (Memory.write m a b) (a + 1) bs

/-- Addresses strictly rising. -/
def Memory.rising : Memory → Bool
  | [] => true
  | [_] => true
  | c :: d :: m => decide (c.1 < d.1) && Memory.rising (d :: m)

/-- The canonical form: addresses strictly rising, all inside memory (R22), and no cell that holds what its address
reads as when unlisted. Equal memories are equal lists. -/
def Memory.wf (m : Memory) : Bool :=
  Memory.rising m && m.all (fun c => decide (c.1 < Config.memSize) && c.2 != Memory.unlisted c.1)

/-- `MEM <- m`. -/
def State.setMem (s : State) (m : Memory) : State := { s with mem := m }

/-! ## Framebuffer (R21) -/

/-- `FB[y][x]`. -/
def FrameBuffer.cell (fb : FrameBuffer) (x : Fin 64) (y : Fin 32) : Bool := fb[y.val][x.val]

/-- `FB[y][x] <- not FB[y][x]` (spec/43_display.md R142). -/
def FrameBuffer.toggle (fb : FrameBuffer) (x : Fin 64) (y : Fin 32) : FrameBuffer :=
  fb.set y.val (fb[y.val].set x.val (!fb[y.val][x.val]))

/-- All 2048 cells false (R21, R140). -/
def FrameBuffer.clear : FrameBuffer := Vector.replicate 32 (Vector.replicate 64 false)

/-- The 2048 cells row-major: cell `(x, y)` at index `y*64 + x` (R178). -/
def FrameBuffer.cells (fb : FrameBuffer) : List Bool := (fb.toList.map Vector.toList).flatten

/-- `FB <- fb`. -/
def State.setFb (s : State) (fb : FrameBuffer) : State := { s with fb := fb }

/-! ## Keypad (R20) -/

/-- `K[k]`. -/
def State.key (s : State) (k : Fin 16) : Bool := s.keys[k.val]

/-- `min { k | K[k] }`, if some key is pressed (spec/44_keypad_timers.md R152). -/
def State.lowestKey? (s : State) : Option (Fin 16) := (List.finRange 16).find? (fun k => s.key k)

/-- `K[index] <- pressed` for an index of 0 to 15; any other index is ignored (R177). -/
def State.setKey (s : State) (index : Nat) (pressed : Bool) : State :=
  if h : index < 16 then { s with keys := s.keys.set index pressed h } else s

/-! ## The random source (R112, R179) -/

/-- The byte the random source presents to this draw (a free value, log entry 6). -/
def State.draw (s : State) : Byte := Config.draw8 s.draws

/-- The draw is consumed: the next one is fresh. -/
def State.drawn (s : State) : State := { s with draws := s.draws + 1 }

/-! ## Faults (spec/60_exceptions.md) -/

/-- The numeric code of a cause (R190). -/
def FaultCause.code : FaultCause → Nat
  | .none => 0
  | .unrecognizedOpcode => 1
  | .memoryOutOfBounds => 2
  | .stackOverflow => 3
  | .stackUnderflow => 4
  | .keyIndexOutOfRange => 6

/-- The state after a fault of the instruction at `PC`: only `HALT` and `FAULT` change (R196, R197). -/
def State.latch (s : State) (cause : FaultCause) (opcode : Word) : State :=
  { s with halt := true, fault := ⟨cause, s.pc, opcode⟩ }

/-- Taking a fault, the one exception entry of this machine: `s` is the state before the STEP, so `PC = pc0`; there is
no vector, no saved register and no mode change (R197; log entry 9). -/
def takeFault (cause : FaultCause) (opcode : Word) (s : State) : Result := .next (s.latch cause opcode)

/-- The only way out of a fault is RESET (R201): every item of the spec's state takes its reset value
(spec/70_reset_and_hazards.md R220). The count of draws is no item of it and goes on, since nothing may be assumed of
draws after RESET (log entry 7). -/
def State.afterReset (s : State) : State := { State.reset with draws := s.draws }

/-- All checks come before the first write (spec/20_memory.md R45): the instruction `i` completes in `t` if its check
holds, and otherwise takes the fault in `s`, the state before it. -/
def checked (ok : Bool) (cause : FaultCause) (i : Instr) (s t : State) : Result :=
  if ok then .next t else takeFault cause (encode i) s

/-! ## Fetch (spec/45_host_commands.md R173) -/

/-- The two bytes at `PC` as a big-endian word, where both lie in memory: `pc0 <= 0xFFE` (spec/20_memory.md R40,
R43). -/
def State.fetch? (s : State) : Option Word :=
  if s.pc.toNat ≤ 0xFFE then some (wordOf (s.mem.read s.pc.toNat) (s.mem.read (s.pc.toNat + 1))) else none

end Sys2Proof.Machine
end

