-- ==== Sys2Proof/Machine/Operands.lean ====
section
/-!
DEFINITION. The operand forms: immediates and address operands as they are written to registers
(spec/30_encoding.md R62), the one addressing mode (spec/42_index_memory.md R126), the key index
(spec/44_keypad_timers.md R156), the decimal digits (R123), the glyph address (R122) and the sprite (R141).
-/

namespace Sys2Proof.Machine

/-- `zext_16(nnn)` (R62). -/
def zextAddr (nnn : Addr) : Word := nnn.zeroExtend 16

/-- `zext_16(V[x])` (spec/00_scope.md R7). -/
def zextByte (b : Byte) : Word := b.zeroExtend 16

/-- The effective address `I + k`: a natural number, without wrap-around at 16 bits (spec/20_memory.md R44, R126). -/
def State.effAddr (s : State) (k : Nat) : Nat := s.i.toNat + k

/-- The `count` bytes from `I` up all lie in memory: the check is on the highest address (R42, R45); no byte, no
check. -/
def State.rangeOk (s : State) (count : Nat) : Bool :=
  count == 0 || decide (s.effAddr (count - 1) ≤ 0xFFF)

/-- `V[0]` to `V[x]`, in ascending order (R124). -/
def State.regsUpTo (s : State) (x : Reg) : List Byte := s.v.toList.take (x.val + 1)

/-- Load registers from number `k` up with the bytes of a list (R125). -/
def loadRegs (v : Vector Byte 16) (k : Nat) : List Byte → Vector Byte 16
  | [] => v
  | b :: bs => if h : k < 16 then loadRegs (v.set k b h) (k + 1) bs else v

/-- `V[0]` to `V[x]` loaded with as many bytes of a list (R125). -/
def State.setRegs (s : State) (bs : List Byte) : State := { s with v := loadRegs s.v 0 bs }

/-- The whole 8-bit value of a register as an index into the 16 keys, not masked; none above 15 (R156). -/
def keyIndex? (b : Byte) : Option (Fin 16) := if h : b.toNat < 16 then some ⟨b.toNat, h⟩ else none

/-- Hundreds, tens and ones of an 8-bit value, each a binary number in a whole byte (R123). -/
def decimalDigits (b : Byte) : List Byte :=
  [BitVec.ofNat 8 (b.toNat / 100), BitVec.ofNat 8 (b.toNat / 10 % 10), BitVec.ofNat 8 (b.toNat % 10)]

/-- The address `LD F, Vx` computes, in either mode (R122). -/
def glyphAddr (mode : Config.Fx29Mode) (b : Byte) : Word :=
  match mode with
  | .times5 => BitVec.ofNat 16 (5 * (b &&& 0x0F#8).toNat)
  | .and5 => zextByte (b &&& 0x05#8)

/-- The cells that row `r` of a sprite at start column `x0` and start row `y0` toggles: bit 7 is the leftmost pixel
(R141), and each coordinate wraps on its own (spec/43_display.md R142). -/
def spriteRow (x0 y0 r : Nat) (b : Byte) : List (Fin 64 × Fin 32) :=
  (List.range 8).filterMap fun c =>
    if b.getLsbD (7 - c) then
      some (⟨(x0 + c) % 64, Nat.mod_lt _ (by decide)⟩, ⟨(y0 + r) % 32, Nat.mod_lt _ (by decide)⟩)
    else none

/-- The cells that a sprite of the rows `bs` toggles, row `r` and the rows after it (R141, R142). -/
def spriteRows (x0 y0 r : Nat) : List Byte → List (Fin 64 × Fin 32)
  | [] => []
  | b :: bs => spriteRow x0 y0 r b ++ spriteRows x0 y0 (r + 1) bs

/-- One pixel of a draw: the cell is toggled, and a cell that was lit is a collision (R142). -/
def drawCell (p : FrameBuffer × Bool) (c : Fin 64 × Fin 32) : FrameBuffer × Bool :=
  (FrameBuffer.toggle p.1 c.1 c.2, p.2 || FrameBuffer.cell p.1 c.1 c.2)

/-- The framebuffer after the pixels of a draw, and whether one of them collided (R142). -/
def drawCells (fb : FrameBuffer) (cs : List (Fin 64 × Fin 32)) : FrameBuffer × Bool :=
  cs.foldl drawCell (fb, false)

/-- The cells `DRW Vx, Vy, n` toggles: the start is `(V[x] mod 64, V[y] mod 32)` and the rows are the `n` bytes at `I`
(R142). -/
def State.spriteCells (s : State) (x y : Reg) (n : Nibble) : List (Fin 64 × Fin 32) :=
  spriteRows ((s.getV x).toNat % 64) ((s.getV y).toNat % 32) 0 (s.mem.readBytes (s.effAddr 0) n.toNat)

end Sys2Proof.Machine
end

