-- ==== Sys2Proof/Machine/Alu.lean ====
section
/-!
DEFINITION. The ALU and register-load instructions (spec/41_alu.md): 8 bits, unsigned, modulo 256 (R111). None can
fault. Operands are read first, then `V[x]` is written, then VF where the instruction has a flag (R12).
-/

namespace Sys2Proof.Machine

/-- The common form of an instruction with a result in `V[x]` and no flag. -/
def writeResult (x : Reg) (r : Byte) (s : State) : Result := .next (s.advance.setV x r)

/-- The common form of an instruction with a result in `V[x]` and a flag in VF, written last (R12). -/
def writeResultFlag (x : Reg) (r flag : Byte) (s : State) : Result := .next ((s.advance.setV x r).setFlag flag)

/-- `LD Vx, nn` (R100). -/
def execLdImm (x : Reg) (nn : Byte) (s : State) : Result := writeResult x nn s

/-- `ADD Vx, nn` (R101): modulo 256, VF not written. -/
def execAddImm (x : Reg) (nn : Byte) (s : State) : Result := writeResult x (s.getV x + nn) s

/-- `LD Vx, Vy` (R102). -/
def execLdReg (x y : Reg) (s : State) : Result := writeResult x (s.getV y) s

/-- `OR Vx, Vy` (R103): VF not written. -/
def execOrReg (x y : Reg) (s : State) : Result := writeResult x (s.getV x ||| s.getV y) s

/-- `AND Vx, Vy` (R104): VF not written. -/
def execAndReg (x y : Reg) (s : State) : Result := writeResult x (s.getV x &&& s.getV y) s

/-- `XOR Vx, Vy` (R105): VF not written. -/
def execXorReg (x y : Reg) (s : State) : Result := writeResult x (s.getV x ^^^ s.getV y) s

/-- `ADD Vx, Vy` (R106): VF is the carry. -/
def execAddReg (x y : Reg) (s : State) : Result :=
  writeResultFlag x (s.getV x + s.getV y) (carry (s.getV x) (s.getV y)) s

/-- `SUB Vx, Vy` (R107): VF is 0 on borrow. -/
def execSubReg (x y : Reg) (s : State) : Result :=
  writeResultFlag x (s.getV x - s.getV y) (notBorrow (s.getV x) (s.getV y)) s

/-- `SHR Vx` (R108): `V[y]` is neither read nor written. -/
def execShr (x _y : Reg) (s : State) : Result :=
  writeResultFlag x (s.getV x >>> 1) (lsbFlag (s.getV x)) s

/-- `SUBN Vx, Vy` (R109): the reverse difference. -/
def execSubnReg (x y : Reg) (s : State) : Result :=
  writeResultFlag x (s.getV y - s.getV x) (notBorrow (s.getV y) (s.getV x)) s

/-- `SHL Vx` (R110): `V[y]` is neither read nor written. -/
def execShl (x _y : Reg) (s : State) : Result :=
  writeResultFlag x (s.getV x <<< 1) (msbFlag (s.getV x)) s

/-- `RND Vx, nn` with the byte `r` drawn (R112). -/
def rndWith (x : Reg) (nn r : Byte) (s : State) : Result := writeResult x (r &&& nn) s.drawn

/-- `RND Vx, nn` (R112): the byte is a free value, chosen afresh for each execution. -/
def execRnd (x : Reg) (nn : Byte) (s : State) : Result := rndWith x nn s.draw s

end Sys2Proof.Machine
end

