-- ==== Sys2Proof/Machine/Control.lean ====
section
/-!
DEFINITION. The control-flow instructions (spec/40_control.md). Every meaning takes the state before the STEP, where
`PC = pc0`, and makes the fetch's advance itself (log entry 10); it reads its operands from that state.
-/

namespace Sys2Proof.Machine

/-- `NOP` (R80): nothing but the advance. -/
def execNop (s : State) : Result := .next s.advance

/-- `RET` (R81): pop into `PC`, or StackUnderflow. -/
def execRet (s : State) : Result :=
  match s.advance.pop? with
  | some (w, t) => .next (t.setPc w)
  | none => takeFault .stackUnderflow (encode .ret) s

/-- `JP nnn` (R82). -/
def execJp (nnn : Addr) (s : State) : Result := .next (s.advance.setPc (zextAddr nnn))

/-- `CALL nnn` (R83): push `pc0 + 2` and jump, or StackOverflow. -/
def execCall (nnn : Addr) (s : State) : Result :=
  match s.advance.push? s.advance.pc with
  | some t => .next (t.setPc (zextAddr nnn))
  | none => takeFault .stackOverflow (encode (.call nnn)) s

/-- `SE Vx, nn` (R84). -/
def execSeImm (x : Reg) (nn : Byte) (s : State) : Result := .next (s.advance.skipIf (s.getV x == nn))

/-- `SNE Vx, nn` (R85). -/
def execSneImm (x : Reg) (nn : Byte) (s : State) : Result := .next (s.advance.skipIf (s.getV x != nn))

/-- `SE Vx, Vy` (R86). -/
def execSeReg (x y : Reg) (s : State) : Result := .next (s.advance.skipIf (s.getV x == s.getV y))

/-- `SNE Vx, Vy` (R87). -/
def execSneReg (x y : Reg) (s : State) : Result := .next (s.advance.skipIf (s.getV x != s.getV y))

/-- `JP V0, nnn` (R88): the sum is not reduced to 12 bits. -/
def execJpV0 (nnn : Addr) (s : State) : Result :=
  .next (s.advance.setPc (zextByte (s.getV 0) + zextAddr nnn))

end Sys2Proof.Machine
end

