-- ==== Sys2Proof/Machine/Display.lean ====
section
/-!
DEFINITION. The display instructions (spec/43_display.md).
-/

namespace Sys2Proof.Machine

/-- `CLS` (R140): VF not written. -/
def execCls (s : State) : Result := .next (s.advance.setFb FrameBuffer.clear)

/-- The state after a draw of the given cells, VF written last (R142). -/
def State.paint (s : State) (cs : List (Fin 64 × Fin 32)) : State :=
  (s.advance.setFb (drawCells s.fb cs).1).setFlag (drawFlag Config.drawNoCollisionFlag (drawCells s.fb cs).2)

/-- `DRW Vx, Vy, n` (R142): the check of all sprite bytes comes before any pixel changes; with `n = 0` there is no
byte and no check. -/
def execDrw (x y : Reg) (n : Nibble) (s : State) : Result :=
  checked (s.rangeOk n.toNat) .memoryOutOfBounds (.drw x y n) s (s.paint (s.spriteCells x y n))

end Sys2Proof.Machine
end

