-- ==== Sys2Proof/Machine/IndexMemory.lean ====
section
/-!
DEFINITION. The index register and memory instructions (spec/42_index_memory.md). Every data access is at `I + k`,
all addresses are checked before anything changes (spec/20_memory.md R45), and `I` is left alone by an access (R126).
-/

namespace Sys2Proof.Machine

/-- `LD I, nnn` (R120). -/
def execLdI (nnn : Addr) (s : State) : Result := .next (s.advance.setI (zextAddr nnn))

/-- `ADD I, Vx` (R121): modulo 2^16, VF not written. -/
def execAddI (x : Reg) (s : State) : Result := .next (s.advance.setI (s.i + zextByte (s.getV x)))

/-- `LD F, Vx` (R122), in the mode of parameter `FX29_MODE`. -/
def execLdF (x : Reg) (s : State) : Result := .next (s.advance.setI (glyphAddr Config.fx29Mode (s.getV x)))

/-- The bytes `bs` stored from `I` up, after the check of all their addresses (R45). -/
def storeAtI (i : Instr) (bs : List Byte) (s : State) : Result :=
  checked (s.rangeOk bs.length) .memoryOutOfBounds i s
    (s.advance.setMem (s.mem.writeBytes (s.effAddr 0) bs))

/-- `LD B, Vx` (R123): hundreds, tens and ones at `I`, `I + 1` and `I + 2`. -/
def execLdB (x : Reg) (s : State) : Result := storeAtI (.ldB x) (decimalDigits (s.getV x)) s

/-- `LD [I], Vx` (R124): `V[0]` to `V[x]` stored from `I` up. -/
def execStoreRange (x : Reg) (s : State) : Result := storeAtI (.storeRange x) (s.regsUpTo x) s

/-- `LD Vx, [I]` (R125): `V[0]` to `V[x]` loaded from `I` up. -/
def execLoadRange (x : Reg) (s : State) : Result :=
  checked (s.rangeOk (x.val + 1)) .memoryOutOfBounds (.loadRange x) s
    (s.advance.setRegs (s.mem.readBytes (s.effAddr 0) (x.val + 1)))

end Sys2Proof.Machine
end

