-- ==== Sys2Proof/Machine/KeypadTimers.lean ====
section
/-!
DEFINITION. The keypad and timer instructions (spec/44_keypad_timers.md).
-/

namespace Sys2Proof.Machine

/-- `SKP Vx` (R150, R156): the whole of `V[x]` is the key index; above 15 it is KeyIndexOutOfRange. -/
def execSkp (x : Reg) (s : State) : Result :=
  match keyIndex? (s.getV x) with
  | some k => .next (s.advance.skipIf (s.key k))
  | none => takeFault .keyIndexOutOfRange (encode (.skp x)) s

/-- `SKNP Vx` (R151, R156). -/
def execSknp (x : Reg) (s : State) : Result :=
  match keyIndex? (s.getV x) with
  | some k => .next (s.advance.skipIf (!s.key k))
  | none => takeFault .keyIndexOutOfRange (encode (.sknp x)) s

/-- `LD Vx, K` (R152): the lowest pressed key, or `PC` back by 2 so that the instruction is fetched again. -/
def execLdKey (x : Reg) (s : State) : Result :=
  match s.lowestKey? with
  | some k => writeResult x (BitVec.ofNat 8 k.val) s
  | none => .next (s.advance.setPc (s.advance.pc - 2))

/-- `LD Vx, DT` (R153). -/
def execLdFromDT (x : Reg) (s : State) : Result := writeResult x s.dt s

/-- `LD DT, Vx` (R154). -/
def execLdToDT (x : Reg) (s : State) : Result := .next (s.advance.setDT (s.getV x))

/-- `LD ST, Vx` (R155). -/
def execLdToST (x : Reg) (s : State) : Result := .next (s.advance.setST (s.getV x))

end Sys2Proof.Machine
end

