-- ==== Sys2Proof/Machine/Step.lean ====
section
/-!
DEFINITION. The command STEP (spec/45_host_commands.md R172 to R175), and a state with a given instruction where STEP
fetches its next one.
-/

namespace Sys2Proof.Machine

/-- One fetch-decode-execute cycle. The checks come in the order of spec/60_exceptions.md R198: halted, fetch bounds,
decode, and then the instruction's own. -/
def step (s : State) : Host.Outcome State Fault Refusal :=
  if s.halt then .next s
  else
    match s.fetch? with
    | none => takeFault .memoryOutOfBounds 0x0000#16 s
    | some op =>
      match decode op with
      | .error _ => takeFault .unrecognizedOpcode op s
      | .ok i => exec i s

/-- `s` with the 16-bit instruction of bits `w` stored where STEP fetches next: the high byte at `PC`, the low one
after it (spec/20_memory.md R40), as LOAD would place it (log entry 12). Where `PC > 0xFFE` no instruction can be
fetched and nothing is stored. -/
def State.withFetchWord (s : State) (nbits w : Nat) : State :=
  if s.pc.toNat ≤ 0xFFE then
    s.setMem (s.mem.writeBytes s.pc.toNat
      [highByte (BitVec.ofNat 16 (w % 2 ^ nbits)), lowByte (BitVec.ofNat 16 (w % 2 ^ nbits))])
  else s

end Sys2Proof.Machine
end

