-- ==== Sys2Proof/Machine/HostCommands.lean ====
section
/-!
DEFINITION. The six host commands (spec/45_host_commands.md R170, R171) as one labelled transition system: STEP is
`step`, and the other five are defined here.
-/

namespace Sys2Proof.Machine

/-- A command with its arguments (R171). -/
inductive Command where
  /-- RESET (R220). -/
  | reset
  /-- LOAD of a byte sequence (R176). -/
  | load (bytes : List Byte)
  /-- SETKEY of any natural index (R177). -/
  | setKey (index : Nat) (pressed : Bool)
  /-- STEP (R172 to R175); its draw, if it executes `RND`, is the state's next one (R179). -/
  | step
  /-- TICK (R203). -/
  | tick
  /-- DISPLAY (R178). -/
  | display
  deriving DecidableEq, Repr

/-- The response of a command (R171). -/
inductive Response where
  /-- RESET and SETKEY answer nothing. -/
  | none
  /-- A STEP or LOAD that succeeded. -/
  | ok
  /-- LOAD's rejection, code 5 of R190; no fault (R199). -/
  | programTooLarge
  /-- The fault record of a STEP that faulted or found `HALT` set (R172, R175). -/
  | fault (r : FaultRecord)
  /-- TICK's cue edge (R203). -/
  | cue (edge : Bool)
  /-- The 2048 cells of DISPLAY, row-major (R178). -/
  | frame (cells : List Bool)
  deriving DecidableEq, Repr

/-- The code of a response that reports a failure, 0 for the others (R190). -/
def Response.code : Response → Nat
  | .programTooLarge => 5
  | .fault r => r.cause.code
  | _ => 0

/-- LOAD (R176): an image that fits is copied to 0x200 and up, and nothing else changes; a longer one is rejected
whole. -/
def load (bytes : List Byte) (s : State) : State × Response :=
  if bytes.length > Config.progMax then (s, .programTooLarge)
  else (s.setMem (s.mem.writeBytes Config.progBase bytes), .ok)

/-- TICK (R203): both timers down by 1 with floor 0; the cue is true on exactly the TICK that finds `ST = 1`. -/
def tick (s : State) : State × Response :=
  ((s.setDT (timerTick s.dt)).setST (timerTick s.st), .cue (s.st == 0x01#8))

/-- The response to a STEP, from the state it left (R172, R175): the fault record where `HALT` is set, else `ok`. -/
def stepResponse (t : State) : Response := if t.halt then .fault t.fault else .ok

/-- The transition of a command (R170, R171). -/
def command (c : Command) (s : State) : Host.Outcome (State × Response) Fault Refusal :=
  match c with
  | .reset => .next (s.afterReset, .none)
  | .load bytes => .next (load bytes s)
  | .setKey index pressed => .next (s.setKey index pressed, .none)
  | .step =>
    match step s with
    | .next t => .next (t, stepResponse t)
    | .fault r => .fault r
    | .refused r => .refused r
  | .tick => .next (tick s)
  | .display => .next (s, .frame s.fb.cells)

/-- A run: the commands in the order the host issues them, each to completion, with their responses (R170, R181). -/
def runCommands : List Command → State → Host.Outcome (State × List Response) Fault Refusal
  | [], s => .next (s, [])
  | c :: cs, s =>
    match command c s with
    | .next (t, r) =>
      match runCommands cs t with
      | .next (u, rs) => .next (u, r :: rs)
      | .fault f => .fault f
      | .refused f => .refused f
    | .fault f => .fault f
    | .refused f => .refused f

end Sys2Proof.Machine
end

