-- ==== Sys2Proof/Safety.lean ====
section
/-!
DEFINITION. The terms claims use: a running and a faulted machine, the invariant of every state a host can bring
about, what a step keeps, and which cells a sprite covers.
-/

namespace Sys2Proof.Machine

/-- The instruction unit is running: no fault has been latched (spec/10_state.md R18). A faulted run is never a
successful end (spec/45_host_commands.md R181). -/
def State.Running (s : State) : Prop := s.halt = false

/-- A STEP that raised `cause` left this state of `s`, the state before it: everything as it was, `PC = pc0` included,
but for `HALT` and `FAULT` (spec/60_exceptions.md R196, R197). -/
def FaultedFrom (s : State) (cause : FaultCause) (opcode : Word) (t : State) : Prop :=
  t = { s with halt := true, fault := { cause := cause, pc := s.pc, opcode := opcode } }

/-! ## The invariant -/

/-- `PC` is at most 0x10FE, the largest value a rule can produce (spec/10_state.md R14). -/
def State.PcBounded (s : State) : Prop := s.pc.toNat ≤ 0x10FE

/-- Every stack entry is at most 0x1000: `CALL` pushes `pc0 + 2`, and a fetch needs `pc0 <= 0xFFE` (R83, R43). -/
def State.StackBounded (s : State) : Prop := ∀ k : Fin 16, (s.stk[k.val]).toNat ≤ 0x1000

/-- While `HALT = 0` the record has its reset value; while `HALT = 1` it has a cause and the address at which `PC`
still stands (R18, R196, R197). -/
def State.LatchConsistent (s : State) : Prop :=
  (s.halt = false → s.fault = FaultRecord.none) ∧
  (s.halt = true → s.fault.cause ≠ FaultCause.none ∧ s.fault.pc = s.pc)

/-- The invariant of every state a sequence of commands can bring about from power-on. -/
def State.Inv (s : State) : Prop :=
  s.mem.wf = true ∧ s.PcBounded ∧ s.StackBounded ∧ s.LatchConsistent

/-! ## What a step keeps (`s` before, `t` after) -/

/-- Every general register but those listed is unchanged. -/
def KeepsRegsBut (ks : List Reg) (s t : State) : Prop := ∀ k : Reg, k ∉ ks → t.getV k = s.getV k

/-- Every byte of memory reads as before. -/
def KeepsMemory (s t : State) : Prop := ∀ a : Nat, t.mem.read a = s.mem.read a

/-- Every byte of memory outside the `count` bytes from `a` up reads as before. -/
def KeepsMemoryBut (a count : Nat) (s t : State) : Prop :=
  ∀ b : Nat, b < a ∨ a + count ≤ b → t.mem.read b = s.mem.read b

/-- `I` is unchanged. -/
def KeepsIndex (s t : State) : Prop := t.i = s.i

/-- The stack unit is unchanged. -/
def KeepsStack (s t : State) : Prop := t.stk = s.stk ∧ t.sp = s.sp

/-- Both timers are unchanged. -/
def KeepsTimers (s t : State) : Prop := t.dt = s.dt ∧ t.st = s.st

/-- The keypad flags are unchanged. -/
def KeepsKeys (s t : State) : Prop := t.keys = s.keys

/-- The framebuffer is unchanged. -/
def KeepsDisplay (s t : State) : Prop := t.fb = s.fb

/-- `HALT` and `FAULT` are unchanged: the instruction completed. -/
def KeepsLatch (s t : State) : Prop := t.halt = s.halt ∧ t.fault = s.fault

/-- No draw was taken from the random source. -/
def KeepsDraws (s t : State) : Prop := t.draws = s.draws

/-- Nothing but general registers and `PC` changed, and no draw was taken. -/
def KeepsAllButRegs (s t : State) : Prop :=
  KeepsIndex s t ∧ KeepsStack s t ∧ KeepsTimers s t ∧ KeepsKeys s t ∧ KeepsDisplay s t ∧ KeepsMemory s t ∧
    KeepsLatch s t ∧ KeepsDraws s t

/-- The instruction wrote `r` to `V[x]`, and nothing else changed but `PC`, which is 2 on. -/
def WroteReg (x : Reg) (r : Byte) (s t : State) : Prop :=
  t.pc = s.pc + 2 ∧ t.getV x = r ∧ KeepsRegsBut [x] s t ∧ KeepsAllButRegs s t

/-- The instruction wrote `r` to `V[x]` and then `flag` to VF, so that with `x = 15` the result is lost (R12), and
nothing else changed but `PC`, which is 2 on. -/
def WroteRegThenFlag (x : Reg) (r flag : Byte) (s t : State) : Prop :=
  t.pc = s.pc + 2 ∧ t.getV regVF = flag ∧ (x ≠ regVF → t.getV x = r) ∧ KeepsRegsBut [x, regVF] s t ∧
    KeepsAllButRegs s t

/-! ## Which instructions can fault -/

/-- The eight instructions of the table of spec/60_exceptions.md R190; the other 27 always complete. -/
def canFault : Instr → Bool
  | .ret | .call _ | .drw _ _ _ | .skp _ | .sknp _ | .ldB _ | .storeRange _ | .loadRange _ => true
  | .nop | .cls | .jp _ | .seImm _ _ | .sneImm _ _ | .seReg _ _ | .sneReg _ _ | .jpV0 _ => false
  | .ldImm _ _ | .addImm _ _ | .ldReg _ _ | .orReg _ _ | .andReg _ _ | .xorReg _ _ | .addReg _ _ => false
  | .subReg _ _ | .shr _ _ | .subnReg _ _ | .shl _ _ | .rnd _ _ | .ldI _ | .addI _ | .ldF _ => false
  | .ldFromDT _ | .ldKey _ | .ldToDT _ | .ldToST _ => false

/-! ## Sprites -/

/-- The sprite of `DRW Vx, Vy, n` has a set bit at the cell `(px, py)`: in row `r`, at column offset `c`, counted from
bit 7, with each coordinate wrapped on its own (spec/43_display.md R141, R142). -/
def SpriteCovers (s : State) (x y : Reg) (n : Nibble) (px : Fin 64) (py : Fin 32) : Prop :=
  ∃ r c : Nat, r < n.toNat ∧ c < 8 ∧
    px.val = ((s.getV x).toNat % 64 + c) % 64 ∧ py.val = ((s.getV y).toNat % 32 + r) % 32 ∧
    (s.mem.read (s.i.toNat + r)).getLsbD (7 - c) = true

/-- Two states that differ at most in dead stack entries, those at `SP` and above (spec/10_state.md R16). -/
def SameButDeadStack (s t : State) : Prop :=
  t = { s with stk := t.stk } ∧ ∀ k : Fin 16, k.val < s.sp.val → t.stk[k.val] = s.stk[k.val]

end Sys2Proof.Machine
end

