-- ==== Sys2Proof/Certificates/Slice0/Obligations.lean ====
section
/-!
DEFINITION. The statements for the provers, in the order of OBLIGATIONS.json. `s` is a state before a STEP, so
`s.pc` is the spec's `pc0`.
-/

open Sys2Proof Sys2Proof.Machine

/-! ## Decoding -/

/-- One word or more of every family decodes to the instruction it stands for (spec/30_encoding.md R63). -/
def Obligations.ExampleWordsDecode : Prop :=
  decode 0x0000#16 = .ok .nop ∧ decode 0x00EE#16 = .ok .ret ∧ decode 0x1205#16 = .ok (.jp 0x205#12) ∧
  decode 0x3A42#16 = .ok (.seImm 10 0x42#8) ∧ decode 0x6A2F#16 = .ok (.ldImm 10 0x2F#8) ∧
  decode 0x8124#16 = .ok (.addReg 1 2) ∧ decode 0x812E#16 = .ok (.shl 1 2) ∧
  decode 0xA300#16 = .ok (.ldI 0x300#12) ∧ decode 0xF155#16 = .ok (.storeRange 1) ∧
  decode 0xF165#16 = .ok (.loadRange 1) ∧ decode 0x00E0#16 = .ok .cls ∧
  decode 0xD012#16 = .ok (.drw 0 1 0x2#4) ∧ decode 0xE29E#16 = .ok (.skp 2) ∧ decode 0xF10A#16 = .ok (.ldKey 1) ∧
  decode 0x8128#16 = .error (.unrecognizedOpcode 0x8128#16)

/-- Decoding the word of an instruction gives the instruction, at every value of every operand. -/
def Obligations.DecodeOfEncode : Prop := ∀ i : Instr, decode (encode i) = .ok i

/-- A word that decodes is the word of the instruction it decodes to: no bit of it is dropped, so each word has one
meaning and the opcode in a fault record is the word fetched. -/
def Obligations.EncodeOfDecode : Prop := ∀ (op : Word) (i : Instr), decode op = .ok i → encode i = op

/-- R63: a word that selects a row of the opcode map decodes to an instruction of that row, a word that selects none is
refused, and no word selects two rows. -/
def Obligations.DecodeSelectsTheRow : Prop :=
  ∀ op : Word,
    (∀ r ∈ opcodeTable, r.selects op = true → ∃ i, decode op = .ok i ∧ i.row = r.number) ∧
    ((∀ r ∈ opcodeTable, r.selects op = false) → decode op = .error (.unrecognizedOpcode op)) ∧
    (∀ r ∈ opcodeTable, ∀ q ∈ opcodeTable, r.selects op = true → q.selects op = true → r = q)

/-- The unrecognized words by highest nibble: the table under R67, which the spec marks as derived from R63. -/
def Obligations.UnrecognizedWordsByNibble : Prop :=
  ∀ op : Word,
    (opD1 op = 0x0#4 → ((∃ i, decode op = .ok i) ↔ op = 0x0000#16 ∨ op = 0x00E0#16 ∨ op = 0x00EE#16)) ∧
    (opD1 op = 0x5#4 ∨ opD1 op = 0x9#4 → ((∃ i, decode op = .ok i) ↔ opN op = 0x0#4)) ∧
    (opD1 op = 0x8#4 → ((∃ i, decode op = .ok i) ↔
      opN op ∉ [0x8#4, 0x9#4, 0xA#4, 0xB#4, 0xC#4, 0xD#4, 0xF#4])) ∧
    (opD1 op = 0xE#4 → ((∃ i, decode op = .ok i) ↔ opNN op = 0x9E#8 ∨ opNN op = 0xA#4 ++ Config.sknpLow)) ∧
    (opD1 op = 0xF#4 → ((∃ i, decode op = .ok i) ↔
      opNN op ∈ [0x07#8, 0x0A#8, 0x15#8, 0x18#8, 0x1E#8, 0x29#8, 0x33#8, 0x55#8, 0x65#8])) ∧
    (opD1 op ∈ [0x1#4, 0x2#4, 0x3#4, 0x4#4, 0x6#4, 0x7#4, 0xA#4, 0xB#4, 0xC#4, 0xD#4] → ∃ i, decode op = .ok i)

/-- Exactly one of 0xExAE and 0xExA1 is `SKNP Vx`, by parameter `SKNP_LOW` (R64, the spec's decision D6, log entry 5);
this machine takes 0xExAE. -/
def Obligations.SknpLowSelectsOneWord : Prop :=
  ∀ x : Reg,
    decodeWith 0xE#4 (0xE#4 ++ nibOf x ++ 0xAE#8) = .ok (.sknp x) ∧
    decodeWith 0xE#4 (0xE#4 ++ nibOf x ++ 0xA1#8) = .error (.unrecognizedOpcode (0xE#4 ++ nibOf x ++ 0xA1#8)) ∧
    decodeWith 0x1#4 (0xE#4 ++ nibOf x ++ 0xA1#8) = .ok (.sknp x) ∧
    decodeWith 0x1#4 (0xE#4 ++ nibOf x ++ 0xAE#8) = .error (.unrecognizedOpcode (0xE#4 ++ nibOf x ++ 0xAE#8)) ∧
    decode (0xE#4 ++ nibOf x ++ 0xAE#8) = .ok (.sknp x)

/-! ## The instruction cycle -/

/-- A running STEP whose two bytes at `PC` decode to `i` is `exec i`: the step adds nothing around it, and `exec` makes
the fetch's advance of `PC` itself (log entry 10; R173, R174). -/
def Obligations.StepRunsTheDecodedInstruction : Prop :=
  ∀ (s : State) (i : Instr), s.Running → s.pc.toNat ≤ 0xFFE →
    decode (s.mem.read s.pc.toNat ++ s.mem.read (s.pc.toNat + 1)) = .ok i → step s = exec i s

/-- R40: the byte at `PC` is the high byte of the opcode, the following byte the low one. -/
def Obligations.FetchIsBigEndian : Prop :=
  ∀ s : State, s.pc.toNat ≤ 0xFFE →
    ∃ op : Word, s.fetch? = some op ∧ op.extractLsb' 8 8 = s.mem.read s.pc.toNat ∧
      op.extractLsb' 0 8 = s.mem.read (s.pc.toNat + 1)

/-- R43: a fetch needs `pc0 <= 0xFFE`; otherwise the STEP raises MemoryOutOfBounds and `PC` is not advanced. -/
def Obligations.FetchOutsideMemoryFaults : Prop :=
  ∀ s : State, s.Running → 0xFFE < s.pc.toNat →
    ∃ t, step s = .next t ∧ FaultedFrom s .memoryOutOfBounds 0x0000#16 t

/-- R191: a fetched word that selects no row of the opcode map raises UnrecognizedOpcode, recorded with the word and
the address it was fetched from; it is never a silent no-op. -/
def Obligations.UnrecognizedOpcodeFaults : Prop :=
  ∀ (s : State) (op : Word), s.Running → s.pc.toNat ≤ 0xFFE →
    op = s.mem.read s.pc.toNat ++ s.mem.read (s.pc.toNat + 1) → wellFormedWord op = false →
    ∃ t, step s = .next t ∧ FaultedFrom s .unrecognizedOpcode op t

/-- A STEP with `HALT = 1` changes nothing and answers the latched record (R172, the spec's decision D11). -/
def Obligations.HaltedStepRepeatsTheRecord : Prop :=
  ∀ s : State, s.halt = true → command .step s = .next (s, .fault s.fault)

/-- Every command completes in every state (R171: "every command completes; none waits for another"): no STEP stops the
model. -/
def Obligations.EveryCommandCompletes : Prop :=
  ∀ (c : Command) (s : State), ∃ t r, command c s = .next (t, r)

/-- Faults are precise (R196, R197, R175: the spec's decisions D11, D12, D13): a STEP that leaves a running machine
halted has changed nothing but `HALT` and `FAULT`, and the record holds a cause, `pc0` and the word fetched, or 0x0000
where the fetch itself faulted. -/
def Obligations.FaultsArePrecise : Prop :=
  ∀ s t : State, s.Running → step s = .next t → t.halt = true →
    ∃ cause op, cause ≠ FaultCause.none ∧ FaultedFrom s cause op t ∧
      (0xFFE < s.pc.toNat → cause = .memoryOutOfBounds ∧ op = 0x0000#16) ∧
      (s.pc.toNat ≤ 0xFFE → op = s.mem.read s.pc.toNat ++ s.mem.read (s.pc.toNat + 1))

/-- Only RESET clears the latch (R197, R201; the spec's decisions D11, D19): any other command leaves a halted machine
halted with the same record, and RESET leaves it running. -/
def Obligations.OnlyResetClearsTheLatch : Prop :=
  (∀ (c : Command) (s t : State) (r : Response), s.halt = true → c ≠ .reset → command c s = .next (t, r) →
    t.halt = true ∧ t.fault = s.fault) ∧
  (∀ s : State, ∃ t r, command .reset s = .next (t, r) ∧ t.Running)

/-- The 27 instructions that the table of R190 does not name complete in every state and touch neither `HALT` nor
`FAULT`. -/
def Obligations.TwentySevenInstructionsNeverFault : Prop :=
  ∀ (i : Instr) (s : State), canFault i = false → ∃ t, exec i s = .next t ∧ KeepsLatch s t

/-! ## Control flow -/

/-- R80: `NOP` is the word 0x0000 and no other (0x0001 is unrecognized), and only advances `PC`. -/
def Obligations.NopOnlyAdvances : Prop :=
  (∀ op : Word, decode op = .ok .nop ↔ op = 0x0000#16) ∧
  decode 0x0001#16 = .error (.unrecognizedOpcode 0x0001#16) ∧
  ∀ s : State, exec .nop s = .next { s with pc := s.pc + 2 }

/-- R82: `JP nnn` sets `PC` to `nnn`, odd or even, whatever it was, and nothing else. -/
def Obligations.JumpSetsPc : Prop :=
  ∀ nnn : Addr, decode (0x1#4 ++ nnn) = .ok (.jp nnn) ∧
    ∀ s : State, ∃ t, exec (.jp nnn) s = .next t ∧ t.pc.toNat = nnn.toNat ∧ t = { s with pc := t.pc }

/-- `JP V0, nnn` (R88; not masking is the spec's decision D23): `PC` is the sum of `V[0]` and `nnn`, not reduced to 12
bits and never wrapped. -/
def Obligations.JumpViaV0AddsUnmasked : Prop :=
  ∀ nnn : Addr, decode (0xB#4 ++ nnn) = .ok (.jpV0 nnn) ∧
    ∀ s : State, ∃ t, exec (.jpV0 nnn) s = .next t ∧ t.pc.toNat = (s.getV 0).toNat + nnn.toNat ∧
      t = { s with pc := t.pc }

/-- `CALL nnn` (R83, R193; the stack pointer's form is the spec's decision D16, the state after a fault D12): with
`SP < 16` it pushes `pc0 + 2` at `STK[SP]`, counts `SP` up and jumps; with `SP = 16` it is StackOverflow. -/
def Obligations.CallPushesReturnAddress : Prop :=
  ∀ (nnn : Addr) (s : State),
    decode (0x2#4 ++ nnn) = .ok (.call nnn) ∧
    (∀ k : Fin 16, s.sp.val = k.val →
      exec (.call nnn) s =
        .next { s with stk := s.stk.set k.val (s.pc + 2), sp := k.succ, pc := nnn.zeroExtend 16 }) ∧
    (s.sp.val = 16 → ∃ t, exec (.call nnn) s = .next t ∧ FaultedFrom s .stackOverflow (0x2#4 ++ nnn) t)

/-- `RET` (R81, R194; the spec's decisions D16, D12): with `SP > 0` it counts `SP` down and jumps to the entry there,
which keeps its bits; with `SP = 0` it is StackUnderflow. -/
def Obligations.ReturnPopsIntoPc : Prop :=
  ∀ s : State,
    decode 0x00EE#16 = .ok .ret ∧
    (∀ k : Fin 16, s.sp.val = k.val + 1 → exec .ret s = .next { s with sp := k.castSucc, pc := s.stk[k.val] }) ∧
    (s.sp.val = 0 → ∃ t, exec .ret s = .next t ∧ FaultedFrom s .stackUnderflow 0x00EE#16 t)

/-- A call and the return from it come back to the instruction after the call, with the stack as deep as before; of
the rest only the popped entry, `STK[SP]`, has changed, and it keeps the address pushed (spec/95_test_vectors.md E5;
R16, R81, R83; the form of `SP` is the spec's decision D16). -/
def Obligations.CallThenReturnResumes : Prop :=
  ∀ (nnn : Addr) (s : State), s.sp.val < 16 →
    ∃ t u, exec (.call nnn) s = .next t ∧ exec .ret t = .next u ∧ u.pc = s.pc + 2 ∧ u.sp = s.sp ∧
      (∀ k : Fin 16, u.stk[k.val] = if k.val = s.sp.val then s.pc + 2 else s.stk[k.val]) ∧
      u = { s with pc := u.pc, stk := u.stk }

/-- R84, R85: the skips on an immediate pass over the next instruction exactly on equality, or on inequality, and
change nothing but `PC`. -/
def Obligations.SkipsOnImmediate : Prop :=
  ∀ (x : Reg) (nn : Byte),
    decode (0x3#4 ++ nibOf x ++ nn) = .ok (.seImm x nn) ∧ decode (0x4#4 ++ nibOf x ++ nn) = .ok (.sneImm x nn) ∧
    ∀ s : State,
      exec (.seImm x nn) s = .next { s with pc := if s.getV x = nn then s.pc + 4 else s.pc + 2 } ∧
      exec (.sneImm x nn) s = .next { s with pc := if s.getV x = nn then s.pc + 2 else s.pc + 4 }

/-- R86, R87: the skips on two registers; with `x = y` the first always skips and the second never does. -/
def Obligations.SkipsOnRegisters : Prop :=
  ∀ x y : Reg,
    decode (0x5#4 ++ nibOf x ++ nibOf y ++ 0x0#4) = .ok (.seReg x y) ∧
    decode (0x9#4 ++ nibOf x ++ nibOf y ++ 0x0#4) = .ok (.sneReg x y) ∧
    ∀ s : State,
      exec (.seReg x y) s = .next { s with pc := if s.getV x = s.getV y then s.pc + 4 else s.pc + 2 } ∧
      exec (.sneReg x y) s = .next { s with pc := if s.getV x = s.getV y then s.pc + 2 else s.pc + 4 }

/-! ## ALU -/

/-- R100, R101: `LD Vx, nn` and `ADD Vx, nn`; the sum is modulo 256 and no flag is written. -/
def Obligations.ImmediateLoadAndAdd : Prop :=
  ∀ (x : Reg) (nn : Byte),
    decode (0x6#4 ++ nibOf x ++ nn) = .ok (.ldImm x nn) ∧ decode (0x7#4 ++ nibOf x ++ nn) = .ok (.addImm x nn) ∧
    ∀ s : State,
      (∃ t, exec (.ldImm x nn) s = .next t ∧ WroteReg x nn s t) ∧
      (∃ t, exec (.addImm x nn) s = .next t ∧
        WroteReg x (BitVec.ofNat 8 (((s.getV x).toNat + nn.toNat) % 256)) s t)

/-- R102 to R105: the copy and the bitwise instructions; none writes VF but as its destination. -/
def Obligations.CopyAndLogic : Prop :=
  ∀ x y : Reg,
    decode (0x8#4 ++ nibOf x ++ nibOf y ++ 0x0#4) = .ok (.ldReg x y) ∧
    decode (0x8#4 ++ nibOf x ++ nibOf y ++ 0x1#4) = .ok (.orReg x y) ∧
    decode (0x8#4 ++ nibOf x ++ nibOf y ++ 0x2#4) = .ok (.andReg x y) ∧
    decode (0x8#4 ++ nibOf x ++ nibOf y ++ 0x3#4) = .ok (.xorReg x y) ∧
    ∀ s : State,
      (∃ t, exec (.ldReg x y) s = .next t ∧ WroteReg x (s.getV y) s t) ∧
      (∃ t, exec (.orReg x y) s = .next t ∧ WroteReg x (s.getV x ||| s.getV y) s t) ∧
      (∃ t, exec (.andReg x y) s = .next t ∧ WroteReg x (s.getV x &&& s.getV y) s t) ∧
      (∃ t, exec (.xorReg x y) s = .next t ∧ WroteReg x (s.getV x ^^^ s.getV y) s t)

/-- R106: `V[x]` is the sum modulo 256, and then VF is 1 if the sum is 256 or more, else 0. -/
def Obligations.AddWritesSumAndCarry : Prop :=
  ∀ x y : Reg,
    decode (0x8#4 ++ nibOf x ++ nibOf y ++ 0x4#4) = .ok (.addReg x y) ∧
    ∀ s : State, ∃ t, exec (.addReg x y) s = .next t ∧
      WroteRegThenFlag x (BitVec.ofNat 8 (((s.getV x).toNat + (s.getV y).toNat) % 256))
        (if 256 ≤ (s.getV x).toNat + (s.getV y).toNat then 0x01#8 else 0x00#8) s t

/-- R107, R109: `V[x]` is the difference modulo 256, one way round or the other, and then VF is 0 on borrow, else
1. -/
def Obligations.SubtractionsWriteNotBorrow : Prop :=
  ∀ x y : Reg,
    decode (0x8#4 ++ nibOf x ++ nibOf y ++ 0x5#4) = .ok (.subReg x y) ∧
    decode (0x8#4 ++ nibOf x ++ nibOf y ++ 0x7#4) = .ok (.subnReg x y) ∧
    ∀ s : State,
      (∃ t, exec (.subReg x y) s = .next t ∧
        WroteRegThenFlag x (BitVec.ofNat 8 ((256 + (s.getV x).toNat - (s.getV y).toNat) % 256))
          (if (s.getV x).toNat < (s.getV y).toNat then 0x00#8 else 0x01#8) s t) ∧
      (∃ t, exec (.subnReg x y) s = .next t ∧
        WroteRegThenFlag x (BitVec.ofNat 8 ((256 + (s.getV y).toNat - (s.getV x).toNat) % 256))
          (if (s.getV y).toNat < (s.getV x).toNat then 0x00#8 else 0x01#8) s t)

/-- R108, R110: the shifts move `V[x]` by one bit and then write the bit shifted out to VF; `V[y]` is neither read nor
written, whatever `y` is. -/
def Obligations.ShiftsMoveOneBit : Prop :=
  ∀ x y : Reg,
    decode (0x8#4 ++ nibOf x ++ nibOf y ++ 0x6#4) = .ok (.shr x y) ∧
    decode (0x8#4 ++ nibOf x ++ nibOf y ++ 0xE#4) = .ok (.shl x y) ∧
    ∀ s : State,
      (∃ t, exec (.shr x y) s = .next t ∧
        WroteRegThenFlag x (BitVec.ofNat 8 ((s.getV x).toNat / 2))
          (if (s.getV x).getLsbD 0 = true then 0x01#8 else 0x00#8) s t) ∧
      (∃ t, exec (.shl x y) s = .next t ∧
        WroteRegThenFlag x (BitVec.ofNat 8 ((s.getV x).toNat * 2 % 256))
          (if (s.getV x).getLsbD 7 = true then 0x01#8 else 0x00#8) s t)

/-- `RND Vx, nn` (R112; the form of the free draw is log entry 6): for every byte `r` the source may present, `V[x]` is
`r & nn`; `exec` takes the next draw of the source and consumes it; nothing else changes. -/
def Obligations.RandomByteIsMasked : Prop :=
  ∀ (x : Reg) (nn : Byte),
    decode (0xC#4 ++ nibOf x ++ nn) = .ok (.rnd x nn) ∧
    ∀ s : State,
      exec (.rnd x nn) s = rndWith x nn (Config.draw8 s.draws) s ∧
      ∀ r : Byte, ∃ t, rndWith x nn r s = .next t ∧ t.pc = s.pc + 2 ∧ t.getV x = r &&& nn ∧
        KeepsRegsBut [x] s t ∧ t = { s with v := t.v, pc := t.pc, draws := s.draws + 1 }

/-- The flag register changes only where the table of R11 says so, or where an instruction names it as its
destination or loads it in a range (spec/10_state.md section 2, R11, which the spec marks as derived). -/
def Obligations.OnlyNamedInstructionsChangeFlag : Prop :=
  ∀ (i : Instr) (s t : State), exec i s = .next t → t.getV regVF ≠ s.getV regVF →
    (∃ x y, i = .addReg x y ∨ i = .subReg x y ∨ i = .shr x y ∨ i = .subnReg x y ∨ i = .shl x y) ∨
    (∃ x y n, i = .drw x y n) ∨
    (∃ nn, i = .ldImm regVF nn ∨ i = .addImm regVF nn ∨ i = .rnd regVF nn) ∨
    (∃ y, i = .ldReg regVF y ∨ i = .orReg regVF y ∨ i = .andReg regVF y ∨ i = .xorReg regVF y) ∨
    i = .ldFromDT regVF ∨ i = .ldKey regVF ∨ i = .loadRange regVF

/-! ## Index register and memory -/

/-- R120, R121: `LD I, nnn` and `ADD I, Vx`; the sum is modulo 2^16 and VF is not written. -/
def Obligations.IndexLoadAndAdd : Prop :=
  (∀ nnn : Addr, decode (0xA#4 ++ nnn) = .ok (.ldI nnn) ∧
    ∀ s : State, ∃ t, exec (.ldI nnn) s = .next t ∧ t.i.toNat = nnn.toNat ∧
      t = { s with i := t.i, pc := s.pc + 2 }) ∧
  (∀ x : Reg, decode (0xF#4 ++ nibOf x ++ 0x1E#8) = .ok (.addI x) ∧
    ∀ s : State, ∃ t, exec (.addI x) s = .next t ∧ t.i.toNat = (s.i.toNat + (s.getV x).toNat) % 65536 ∧
      t = { s with i := t.i, pc := s.pc + 2 })

/-- `LD F, Vx` (R122; the value of `FX29_MODE` is the spec's decision D5, log entry 4): `I` is five times the low nibble
of `V[x]`, inside the glyph table; under AND5 it would be `V[x] & 5`. -/
def Obligations.GlyphAddress : Prop :=
  (∀ x : Reg, decode (0xF#4 ++ nibOf x ++ 0x29#8) = .ok (.ldF x) ∧
    ∀ s : State, ∃ t, exec (.ldF x) s = .next t ∧ t.i.toNat = 5 * ((s.getV x).toNat % 16) ∧
      t = { s with i := t.i, pc := s.pc + 2 }) ∧
  (∀ b : Byte, glyphAddr .and5 b = (b &&& 0x05#8).zeroExtend 16)

/-- R123: with `I + 2 <= 0xFFF`, `LD B, Vx` stores hundreds, tens and ones of `V[x]` at `I`, `I + 1`, `I + 2`, and
changes nothing else; otherwise it is MemoryOutOfBounds and no byte is written. -/
def Obligations.DecimalDigitsAreStored : Prop :=
  ∀ x : Reg, decode (0xF#4 ++ nibOf x ++ 0x33#8) = .ok (.ldB x) ∧
    ∀ s : State,
      (s.effAddr 2 ≤ 0xFFF → ∃ t, exec (.ldB x) s = .next t ∧
        t.mem.read (s.effAddr 0) = BitVec.ofNat 8 ((s.getV x).toNat / 100) ∧
        t.mem.read (s.effAddr 1) = BitVec.ofNat 8 ((s.getV x).toNat / 10 % 10) ∧
        t.mem.read (s.effAddr 2) = BitVec.ofNat 8 ((s.getV x).toNat % 10) ∧
        KeepsMemoryBut (s.effAddr 0) 3 s t ∧ t = { s with mem := t.mem, pc := s.pc + 2 }) ∧
      (0xFFF < s.effAddr 2 → ∃ t, exec (.ldB x) s = .next t ∧
        FaultedFrom s .memoryOutOfBounds (0xF#4 ++ nibOf x ++ 0x33#8) t)

/-- R124: with `I + x <= 0xFFF`, `LD [I], Vx` stores `V[0]` to `V[x]` from `I` up and changes nothing else, `I`
included; otherwise it is MemoryOutOfBounds and no byte is written. -/
def Obligations.RegisterRangeIsStored : Prop :=
  ∀ x : Reg, decode (0xF#4 ++ nibOf x ++ 0x55#8) = .ok (.storeRange x) ∧
    ∀ s : State,
      (s.effAddr x.val ≤ 0xFFF → ∃ t, exec (.storeRange x) s = .next t ∧
        (∀ k : Reg, k ≤ x → t.mem.read (s.effAddr k.val) = s.getV k) ∧
        KeepsMemoryBut (s.effAddr 0) (x.val + 1) s t ∧ t = { s with mem := t.mem, pc := s.pc + 2 }) ∧
      (0xFFF < s.effAddr x.val → ∃ t, exec (.storeRange x) s = .next t ∧
        FaultedFrom s .memoryOutOfBounds (0xF#4 ++ nibOf x ++ 0x55#8) t)

/-- R125: with `I + x <= 0xFFF`, `LD Vx, [I]` loads `V[0]` to `V[x]` from `I` up, and leaves the registers above `x`,
`I` and memory alone; otherwise it is MemoryOutOfBounds and no register is loaded. -/
def Obligations.RegisterRangeIsLoaded : Prop :=
  ∀ x : Reg, decode (0xF#4 ++ nibOf x ++ 0x65#8) = .ok (.loadRange x) ∧
    ∀ s : State,
      (s.effAddr x.val ≤ 0xFFF → ∃ t, exec (.loadRange x) s = .next t ∧ t.pc = s.pc + 2 ∧
        (∀ k : Reg, k ≤ x → t.getV k = s.mem.read (s.effAddr k.val)) ∧
        (∀ k : Reg, x < k → t.getV k = s.getV k) ∧ KeepsAllButRegs s t) ∧
      (0xFFF < s.effAddr x.val → ∃ t, exec (.loadRange x) s = .next t ∧
        FaultedFrom s .memoryOutOfBounds (0xF#4 ++ nibOf x ++ 0x65#8) t)

/-- A range store followed by the range load of the same registers restores them all, even if they were overwritten in
between (spec/42_index_memory.md). -/
def Obligations.StoreThenLoadRestores : Prop :=
  ∀ (x : Reg) (s : State) (v : Vector Byte 16), s.effAddr x.val ≤ 0xFFF →
    ∃ t u, exec (.storeRange x) s = .next t ∧ exec (.loadRange x) { t with v := v } = .next u ∧
      (∀ k : Reg, k ≤ x → u.getV k = s.getV k) ∧ KeepsMemory t u

/-- Bytes stored by one STEP are the bytes fetched by the next if `PC` points at them (R53, which the spec marks as
derived): self-modifying code needs no fence. -/
def Obligations.StoredBytesAreFetched : Prop :=
  ∀ (x j k : Reg) (s : State) (a : Word), s.effAddr x.val ≤ 0xFFF → k.val = j.val + 1 → k ≤ x →
    a.toNat = s.effAddr j.val →
    ∃ t, exec (.storeRange x) s = .next t ∧ ({ t with pc := a } : State).fetch? = some (s.getV j ++ s.getV k)

/-- Memories in canonical form that read alike at every address are the same list (log entry 11). -/
def Obligations.CanonicalMemoriesAreUnique : Prop :=
  ∀ m n : Memory, m.wf = true → n.wf = true → (∀ a : Nat, m.read a = n.read a) → m = n

/-! ## Display -/

/-- R140: `CLS` makes every cell false, and changes nothing else but `PC`: VF in particular is kept. -/
def Obligations.ClearMakesAllCellsFalse : Prop :=
  decode 0x00E0#16 = .ok .cls ∧
  ∀ s : State, ∃ t, exec .cls s = .next t ∧ (∀ px py, FrameBuffer.cell t.fb px py = false) ∧
    t = { s with fb := t.fb, pc := s.pc + 2 }

/-- `DRW Vx, Vy, n` (R142; the order of a byte's bits, the fault's precision, the case `n = 0` and the value of
`DRAW_NOCOLLISION_FLAG` are the spec's decisions D8, D12, D26, D4, log entries 3 and 13): with all sprite bytes inside
memory exactly the covered cells are inverted, wrapped and never clipped; VF is written last, 1 if a covered cell was
lit and otherwise the parameter; nothing else changes but `PC`. -/
def Obligations.DrawInvertsCoveredCells : Prop :=
  ∀ (x y : Reg) (n : Nibble), decode (0xD#4 ++ nibOf x ++ nibOf y ++ n) = .ok (.drw x y n) ∧
    ∀ s : State, n = 0x0#4 ∨ s.effAddr (n.toNat - 1) ≤ 0xFFF →
      ∃ t, exec (.drw x y n) s = .next t ∧ t.pc = s.pc + 2 ∧
        (∀ px py, SpriteCovers s x y n px py → FrameBuffer.cell t.fb px py = !FrameBuffer.cell s.fb px py) ∧
        (∀ px py, ¬SpriteCovers s x y n px py → FrameBuffer.cell t.fb px py = FrameBuffer.cell s.fb px py) ∧
        ((∃ px py, SpriteCovers s x y n px py ∧ FrameBuffer.cell s.fb px py = true) → t.getV regVF = 0x01#8) ∧
        ((∀ px py, SpriteCovers s x y n px py → FrameBuffer.cell s.fb px py = false) →
          t.getV regVF = if Config.drawNoCollisionFlag then 0x01#8 else 0x00#8) ∧
        KeepsRegsBut [regVF] s t ∧ KeepsIndex s t ∧ KeepsStack s t ∧ KeepsTimers s t ∧ KeepsKeys s t ∧
        KeepsMemory s t ∧ KeepsLatch s t ∧ KeepsDraws s t

/-- A sprite byte above 0xFFF: the draw is MemoryOutOfBounds, and no pixel and no flag changes (R142, R45; the spec's
decision D12). -/
def Obligations.DrawOutsideMemoryFaults : Prop :=
  ∀ (x y : Reg) (n : Nibble) (s : State), n ≠ 0x0#4 → 0xFFF < s.effAddr (n.toNat - 1) →
    ∃ t, exec (.drw x y n) s = .next t ∧
      FaultedFrom s .memoryOutOfBounds (0xD#4 ++ nibOf x ++ nibOf y ++ n) t

/-- Drawing the same sprite twice at the same place restores the framebuffer (corner case of R142). -/
def Obligations.DrawTwiceRestoresDisplay : Prop :=
  ∀ (x y : Reg) (n : Nibble) (s : State), x ≠ regVF → y ≠ regVF →
    (n = 0x0#4 ∨ s.effAddr (n.toNat - 1) ≤ 0xFFF) →
    ∃ t u, exec (.drw x y n) s = .next t ∧ exec (.drw x y n) t = .next u ∧ u.fb = s.fb

/-- VF is 1 after every draw that completes, collision or not: it rests on `DRAW_NOCOLLISION_FLAG = 1` (R142, C2; the
spec's decision D4, log entry 3). -/
def Obligations.FlagIsOneAfterEveryDraw : Prop :=
  ∀ (x y : Reg) (n : Nibble) (s : State), n = 0x0#4 ∨ s.effAddr (n.toNat - 1) ≤ 0xFFF →
    ∃ t, exec (.drw x y n) s = .next t ∧ t.getV regVF = 0x01#8

/-! ## Keypad and timers -/

/-- `SKP Vx` and `SKNP Vx` (R150, R151; the fault is the spec's decision D10 of R156, the low nibble of `SKNP` its
decision D6): a `V[x]` of 0 to 15 skips on that key's level; above 15 it is KeyIndexOutOfRange. -/
def Obligations.SkipsOnKey : Prop :=
  ∀ x : Reg,
    decode (0xE#4 ++ nibOf x ++ 0x9E#8) = .ok (.skp x) ∧ decode (0xE#4 ++ nibOf x ++ 0xAE#8) = .ok (.sknp x) ∧
    ∀ s : State,
      (∀ k : Fin 16, (s.getV x).toNat = k.val →
        exec (.skp x) s = .next { s with pc := if s.keys[k.val] = true then s.pc + 4 else s.pc + 2 } ∧
        exec (.sknp x) s = .next { s with pc := if s.keys[k.val] = true then s.pc + 2 else s.pc + 4 }) ∧
      (15 < (s.getV x).toNat →
        (∃ t, exec (.skp x) s = .next t ∧ FaultedFrom s .keyIndexOutOfRange (0xE#4 ++ nibOf x ++ 0x9E#8) t) ∧
        (∃ t, exec (.sknp x) s = .next t ∧ FaultedFrom s .keyIndexOutOfRange (0xE#4 ++ nibOf x ++ 0xAE#8) t))

/-- R152: `LD Vx, K` loads the lowest pressed key; with no key pressed it leaves `PC` at itself and the whole state as
it was. -/
def Obligations.KeyWaitPolls : Prop :=
  ∀ x : Reg, decode (0xF#4 ++ nibOf x ++ 0x0A#8) = .ok (.ldKey x) ∧
    ∀ s : State,
      ((∀ k : Fin 16, s.keys[k.val] = false) → exec (.ldKey x) s = .next s) ∧
      (∀ k : Fin 16, s.keys[k.val] = true → (∀ j : Fin 16, j < k → s.keys[j.val] = false) →
        ∃ t, exec (.ldKey x) s = .next t ∧ WroteReg x (BitVec.ofNat 8 k.val) s t)

/-- R153, R154, R155: the timer transfers. -/
def Obligations.TimerTransfers : Prop :=
  ∀ x : Reg,
    decode (0xF#4 ++ nibOf x ++ 0x07#8) = .ok (.ldFromDT x) ∧ decode (0xF#4 ++ nibOf x ++ 0x15#8) = .ok (.ldToDT x) ∧
    decode (0xF#4 ++ nibOf x ++ 0x18#8) = .ok (.ldToST x) ∧
    ∀ s : State,
      (∃ t, exec (.ldFromDT x) s = .next t ∧ WroteReg x s.dt s t) ∧
      (∃ t, exec (.ldToDT x) s = .next t ∧ t.dt = s.getV x ∧ t = { s with dt := t.dt, pc := s.pc + 2 }) ∧
      (∃ t, exec (.ldToST x) s = .next t ∧ t.st = s.getV x ∧ t = { s with st := t.st, pc := s.pc + 2 })

/-- R203: TICK counts both timers down by 1 with floor 0, answers the cue exactly when it finds `ST = 1`, and touches
nothing else, halted or not. -/
def Obligations.TickCountsDown : Prop :=
  ∀ s : State, ∃ t, command .tick s = .next (t, .cue (decide (s.st = 0x01#8))) ∧
    t.dt.toNat = s.dt.toNat - 1 ∧ t.st.toNat = s.st.toNat - 1 ∧ t = { s with dt := t.dt, st := t.st }

/-- A timer loaded with `v` reaches 0 on the `v`-th TICK, stays there, and the cue comes on that TICK of `ST` alone
(corner cases of R203). -/
def Obligations.TicksRunTimersOut : Prop :=
  ∀ (n : Nat) (s : State), ∃ t,
    runCommands (List.replicate n .tick) s =
      .next (t, (List.range n).map (fun k => .cue (decide (s.st.toNat = k + 1)))) ∧
    t.dt.toNat = s.dt.toNat - n ∧ t.st.toNat = s.st.toNat - n ∧ t = { s with dt := t.dt, st := t.st }

/-! ## Host commands -/

/-- R177: SETKEY sets the flag of an index of 0 to 15 and no other; any other index is ignored. -/
def Obligations.SetKeySetsOneFlag : Prop :=
  ∀ (index : Nat) (pressed : Bool) (s : State), ∃ t, command (.setKey index pressed) s = .next (t, .none) ∧
    (∀ k : Fin 16, t.keys[k.val] = if k.val = index then pressed else s.keys[k.val]) ∧
    t = { s with keys := t.keys }

/-- LOAD (R176; what it leaves alone is the spec's decision D18): at most 3584 bytes are copied to 0x200 and up, and
nothing else changes; a longer image is rejected whole. -/
def Obligations.LoadCopiesTheImage : Prop :=
  ∀ (bytes : List Byte) (s : State),
    (bytes.length ≤ 3584 → ∃ t, command (.load bytes) s = .next (t, .ok) ∧
      (∀ (k : Nat) (h : k < bytes.length), t.mem.read (0x200 + k) = bytes[k]) ∧
      KeepsMemoryBut 0x200 bytes.length s t ∧ t = { s with mem := t.mem }) ∧
    (3584 < bytes.length → command (.load bytes) s = .next (s, .programTooLarge))

/-- RESET (R220, R30; the zeros are the spec's decision D2, log entry 1; the count of draws goes on, log entry 7): from
every state, every item has its reset value. -/
def Obligations.ResetRestoresEverything : Prop :=
  ∀ s : State, ∃ t, command .reset s = .next (t, .none) ∧ t.pc = 0x0200#16 ∧
    (∀ px py, FrameBuffer.cell t.fb px py = false) ∧
    (∀ a : Nat, a < 80 → Config.font[a]? = some (t.mem.read a)) ∧ (∀ a : Nat, 80 ≤ a → t.mem.read a = 0x00#8) ∧
    (∀ k : Reg, t.getV k = 0x00#8) ∧ t.i = 0x0000#16 ∧ t.sp.val = 0 ∧ (∀ k : Fin 16, t.stk[k.val] = 0x0000#16) ∧
    t.dt = 0x00#8 ∧ t.st = 0x00#8 ∧ (∀ k : Fin 16, t.keys[k.val] = false) ∧ t.halt = false ∧
    t.fault = { cause := .none, pc := 0x0000#16, opcode := 0x0000#16 } ∧ t.draws = s.draws

/-- R178: DISPLAY answers the 2048 cells, cell `(x, y)` at index `y*64 + x`, and changes nothing. -/
def Obligations.DisplayReadsRowMajor : Prop :=
  ∀ s : State, ∃ cells, command .display s = .next (s, .frame cells) ∧ cells.length = 2048 ∧
    ∀ (px : Fin 64) (py : Fin 32), cells[py.val * 64 + px.val]? = some (FrameBuffer.cell s.fb px py)

/-- The boot sequence (R222, which the spec marks as derived): RESET and LOAD of an image of 1 to 3584 bytes leave, from
any state, a running machine at 0x200 with the image there, the glyph table below and zeros elsewhere. -/
def Obligations.BootLeavesTheImage : Prop :=
  ∀ (s : State) (image : List Byte), 1 ≤ image.length → image.length ≤ 3584 →
    ∃ t, runCommands [.reset, .load image] s = .next (t, [.none, .ok]) ∧ t.Running ∧ t.pc = 0x0200#16 ∧
      t.sp.val = 0 ∧ (∀ (k : Nat) (h : k < image.length), t.mem.read (0x200 + k) = image[k]) ∧
      (∀ a : Nat, a < 80 → Config.font[a]? = some (t.mem.read a)) ∧
      (∀ a : Nat, 80 ≤ a → a < 0x200 ∨ 0x200 + image.length ≤ a → t.mem.read a = 0x00#8)

/-! ## Invariants and rules about the whole machine -/

/-- The invariant holds after reset, and the machine is then running with an empty record (R18, R30). That memory is
in canonical form is a property of the model's representation, its own choice (log entry 11). -/
def Obligations.InvariantHoldsAtReset : Prop :=
  State.reset.Inv ∧ State.reset.Running ∧
    State.reset.fault = { cause := .none, pc := 0x0000#16, opcode := 0x0000#16 }

/-- Every STEP keeps the invariant: memory in canonical form (a property of the model's representation, its own choice,
log entry 11), `PC` at most 0x10FE (R14, which the spec marks as derived), every stack entry at most 0x1000 (`CALL`
pushes `pc0 + 2`, R83, after a fetch with `pc0 <= 0xFFE`, R43), and the latch consistent with its record (R18, the
spec's decisions D11 and D12). -/
def Obligations.StepKeepsInvariant : Prop := ∀ s t : State, s.Inv → step s = .next t → t.Inv

/-- Every sequence of host commands keeps the invariant (R170: a claim "holds for every sequence"). That memory is in
canonical form is a property of the model's representation, its own choice (log entry 11). -/
def Obligations.EveryScheduleKeepsInvariant : Prop :=
  ∀ (cs : List Command) (s t : State) (rs : List Response), s.Inv → runCommands cs s = .next (t, rs) → t.Inv

/-- Each item of state is written only by the instructions the spec names for it (spec/10_state.md R15 to R21): no
instruction writes the keypad, and the index register, the stack, the timers, the framebuffer and memory have their own
writers. The last clause, that only `RND` takes a draw (R179), speaks of the count of draws, the model's own field (log
entries 6 and 7). -/
def Obligations.StateHasItsOwnWriters : Prop :=
  ∀ (i : Instr) (s t : State), exec i s = .next t →
    t.keys = s.keys ∧
    (t.i ≠ s.i → (∃ nnn, i = .ldI nnn) ∨ (∃ x, i = .addI x ∨ i = .ldF x)) ∧
    (t.sp ≠ s.sp ∨ t.stk ≠ s.stk → i = .ret ∨ ∃ nnn, i = .call nnn) ∧
    (t.dt ≠ s.dt → ∃ x, i = .ldToDT x) ∧
    (t.st ≠ s.st → ∃ x, i = .ldToST x) ∧
    (t.fb ≠ s.fb → i = .cls ∨ ∃ x y n, i = .drw x y n) ∧
    (t.mem ≠ s.mem → ∃ x, i = .ldB x ∨ i = .storeRange x) ∧
    (t.draws ≠ s.draws → ∃ x nn, i = .rnd x nn)

/-- No instruction reads the sound timer (R17): from two states that differ in `ST` alone, an instruction leaves two
states that differ in `ST` alone, or not at all where it is `LD ST, Vx`. For `RND` it compares the two states under the
same draw: that states with the same count of draws are given the same byte is the model's choice (log entry 6). -/
def Obligations.SoundTimerIsNeverRead : Prop :=
  ∀ (i : Instr) (s t : State) (b : Byte), exec i s = .next t →
    ((∀ x, i ≠ .ldToST x) → t.st = s.st ∧ exec i { s with st := b } = .next { t with st := b }) ∧
    (∀ x, i = .ldToST x → exec i { s with st := b } = .next t)

/-- A popped stack entry is dead: no STEP reads one before a push overwrites it (R16; the spec's decision D16). At
`RND` it compares the two states under the same draw: that states with the same count of draws are given the same byte
is the model's choice (log entry 6). -/
def Obligations.DeadStackEntriesAreNeverRead : Prop :=
  ∀ s u t : State, SameButDeadStack s u → step s = .next t → ∃ w, step u = .next w ∧ SameButDeadStack t w

/-- The random source reaches the state only through `RND` (R174: "the only input besides state and opcode is the
`draw8()` of `RND`"): any other instruction does the same whatever draws are to come. The count of
draws is the model's own form of that input (log entry 6). -/
def Obligations.OnlyRandomTakesDraws : Prop :=
  ∀ (i : Instr) (s t : State) (d : Nat), (∀ x nn, i ≠ .rnd x nn) → exec i s = .next t →
    t.draws = s.draws ∧ exec i { s with draws := d } = .next { t with draws := d }
end

