-- ==== Sys2Proof/Laws/Encoding.lean ====
section
/-!
SUPPORT. The fields of the words the encoder builds, one lemma for each field of each format (spec/30_encoding.md R61,
R62), and the bits of a word put together again from its fields.
-/

namespace Sys2Proof

@[simp] theorem regOf_nibOf (x : Reg) : regOf (nibOf x) = x := by
  revert x; decide

@[simp] theorem nibOf_regOf (b : Nibble) : nibOf (regOf b) = b := by
  revert b; decide

/-! ## Format NNN -/

@[simp] theorem opD1_encodeNNN (d1 : Nibble) (nnn : Addr) : opD1 (encodeNNN d1 nnn) = d1 :=
  BitVec.extractLsb'_append_eq_left

@[simp] theorem opNNN_encodeNNN (d1 : Nibble) (nnn : Addr) : opNNN (encodeNNN d1 nnn) = nnn :=
  BitVec.extractLsb'_append_eq_right

theorem encodeNNN_fields (op : Word) : encodeNNN (opD1 op) (opNNN op) = op :=
  BitVec.extractLsb'_append_extractLsb'

/-! ## Formats XNN and X -/

@[simp] theorem opD1_encodeXNN (d1 : Nibble) (x : Reg) (nn : Byte) : opD1 (encodeXNN d1 x nn) = d1 :=
  (BitVec.extractLsb'_append_eq_of_le (by decide)).trans BitVec.extractLsb'_append_eq_left

@[simp] theorem opX_encodeXNN (d1 : Nibble) (x : Reg) (nn : Byte) : opX (encodeXNN d1 x nn) = x := by
  have : (encodeXNN d1 x nn).extractLsb' 8 4 = nibOf x :=
    (BitVec.extractLsb'_append_eq_of_le (by decide)).trans BitVec.extractLsb'_append_eq_right
  rw [opX, this, regOf_nibOf]

@[simp] theorem opNN_encodeXNN (d1 : Nibble) (x : Reg) (nn : Byte) : opNN (encodeXNN d1 x nn) = nn :=
  BitVec.extractLsb'_append_eq_right

theorem encodeXNN_fields (op : Word) : encodeXNN (opD1 op) (opX op) (opNN op) = op := by
  have h : op.extractLsb' 12 4 ++ op.extractLsb' 8 4 = op.extractLsb' 8 8 :=
    BitVec.extractLsb'_append_extractLsb'_eq_extractLsb' (by decide)
  rw [encodeXNN, opX, nibOf_regOf, opD1, opNN, h]
  exact BitVec.extractLsb'_append_extractLsb'

/-! ## Formats XY and XYN -/

@[simp] theorem opD1_encodeXYN (d1 : Nibble) (x y : Reg) (d4 : Nibble) : opD1 (encodeXYN d1 x y d4) = d1 :=
  (BitVec.extractLsb'_append_eq_of_le (by decide)).trans
    ((BitVec.extractLsb'_append_eq_of_le (by decide)).trans BitVec.extractLsb'_append_eq_left)

@[simp] theorem opX_encodeXYN (d1 : Nibble) (x y : Reg) (d4 : Nibble) : opX (encodeXYN d1 x y d4) = x := by
  have : (encodeXYN d1 x y d4).extractLsb' 8 4 = nibOf x :=
    (BitVec.extractLsb'_append_eq_of_le (by decide)).trans
      ((BitVec.extractLsb'_append_eq_of_le (by decide)).trans BitVec.extractLsb'_append_eq_right)
  rw [opX, this, regOf_nibOf]

@[simp] theorem opY_encodeXYN (d1 : Nibble) (x y : Reg) (d4 : Nibble) : opY (encodeXYN d1 x y d4) = y := by
  have : (encodeXYN d1 x y d4).extractLsb' 4 4 = nibOf y :=
    (BitVec.extractLsb'_append_eq_of_le (by decide)).trans BitVec.extractLsb'_append_eq_right
  rw [opY, this, regOf_nibOf]

@[simp] theorem opN_encodeXYN (d1 : Nibble) (x y : Reg) (d4 : Nibble) : opN (encodeXYN d1 x y d4) = d4 :=
  BitVec.extractLsb'_append_eq_right

theorem encodeXYN_fields (op : Word) : encodeXYN (opD1 op) (opX op) (opY op) (opN op) = op := by
  have h : op.extractLsb' 12 4 ++ op.extractLsb' 8 4 = op.extractLsb' 8 8 :=
    BitVec.extractLsb'_append_extractLsb'_eq_extractLsb' (by decide)
  have h' : op.extractLsb' 8 8 ++ op.extractLsb' 4 4 = op.extractLsb' 4 12 :=
    BitVec.extractLsb'_append_extractLsb'_eq_extractLsb' (by decide)
  rw [encodeXYN, opX, opY, nibOf_regOf, nibOf_regOf, opD1, opN, h, h']
  exact BitVec.extractLsb'_append_extractLsb'

/-! ## Words under the masks of the opcode map (R63) -/

theorem encodeNNN_and_F000 (d1 : Nibble) (nnn : Addr) : encodeNNN d1 nnn &&& 0xF000#16 = d1 ++ 0x000#12 := by
  have h : (0xF000#16 : Word) = 0xF#4 ++ 0x000#12 := by decide
  rw [h, encodeNNN]
  refine BitVec.and_append.trans ?_
  rw [show d1 &&& 0xF#4 = d1 by revert d1; decide, BitVec.and_zero]

theorem encodeXNN_and_F000 (d1 : Nibble) (x : Reg) (nn : Byte) :
    encodeXNN d1 x nn &&& 0xF000#16 = d1 ++ 0x0#4 ++ 0x00#8 := by
  have h : (0xF000#16 : Word) = 0xF#4 ++ 0x0#4 ++ 0x00#8 := by decide
  rw [h, encodeXNN]
  refine BitVec.and_append.trans ?_
  rw [BitVec.and_append, show d1 &&& 0xF#4 = d1 by revert d1; decide, BitVec.and_zero, BitVec.and_zero]

theorem encodeXNN_and_F0FF (d1 : Nibble) (x : Reg) (nn : Byte) :
    encodeXNN d1 x nn &&& 0xF0FF#16 = d1 ++ 0x0#4 ++ nn := by
  have h : (0xF0FF#16 : Word) = 0xF#4 ++ 0x0#4 ++ 0xFF#8 := by decide
  rw [h, encodeXNN]
  refine BitVec.and_append.trans ?_
  rw [BitVec.and_append, show d1 &&& 0xF#4 = d1 by revert d1; decide, BitVec.and_zero,
    show nn &&& 0xFF#8 = nn from BitVec.and_allOnes]

theorem encodeXYN_and_F00F (d1 : Nibble) (x y : Reg) (d4 : Nibble) :
    encodeXYN d1 x y d4 &&& 0xF00F#16 = d1 ++ 0x0#4 ++ 0x0#4 ++ d4 := by
  have h : (0xF00F#16 : Word) = 0xF#4 ++ 0x0#4 ++ 0x0#4 ++ 0xF#4 := by decide
  rw [h, encodeXYN]
  refine BitVec.and_append.trans ?_
  rw [BitVec.and_append, BitVec.and_append, show d1 &&& 0xF#4 = d1 by revert d1; decide, BitVec.and_zero,
    BitVec.and_zero, show d4 &&& 0xF#4 = d4 by revert d4; decide]

theorem encodeXYN_and_F000 (d1 : Nibble) (x y : Reg) (d4 : Nibble) :
    encodeXYN d1 x y d4 &&& 0xF000#16 = d1 ++ 0x0#4 ++ 0x0#4 ++ 0x0#4 := by
  have h : (0xF000#16 : Word) = 0xF#4 ++ 0x0#4 ++ 0x0#4 ++ 0x0#4 := by decide
  rw [h, encodeXYN]
  refine BitVec.and_append.trans ?_
  rw [BitVec.and_append, BitVec.and_append, show d1 &&& 0xF#4 = d1 by revert d1; decide, BitVec.and_zero,
    BitVec.and_zero, BitVec.and_zero]

/-! ## Bytes of a word -/

@[simp] theorem highByte_wordOf (hi lo : Byte) : highByte (wordOf hi lo) = hi :=
  BitVec.extractLsb'_append_eq_left

@[simp] theorem lowByte_wordOf (hi lo : Byte) : lowByte (wordOf hi lo) = lo :=
  BitVec.extractLsb'_append_eq_right

@[simp] theorem wordOf_bytes (op : Word) : wordOf (highByte op) (lowByte op) = op :=
  BitVec.extractLsb'_append_extractLsb'

end Sys2Proof
end

