-- ==== Sys2Proof/Laws/Memory.lean ====
section
/-!
SUPPORT. The laws of the memory operations: a read after a write, what a write leaves alone, and the canonical form.
The read laws hold of every list of cells, canonical or not.
-/

namespace Sys2Proof.Machine

/-! ## Reads after writes -/

theorem Memory.read_filter_ne (m : Memory) {a b : Nat} (h : b ≠ a) :
    Memory.read (m.filter (fun c => c.1 != a)) b = Memory.read m b := by
  induction m with
  | nil => rfl
  | cons c m ih =>
    by_cases hc : c.1 = a
    · have hb : c.1 ≠ b := fun e => h (e ▸ hc)
      simp [hc, Memory.read, ih]
      intro e; exact absurd (hc.trans e) hb
    · simp [hc, Memory.read, ih]

theorem Memory.read_filter_same (m : Memory) (a : Nat) :
    Memory.read (m.filter (fun c => c.1 != a)) a = Memory.unlisted a := by
  induction m with
  | nil => rfl
  | cons c m ih =>
    by_cases hc : c.1 = a
    · simp [hc, ih]
    · simp [hc, Memory.read, ih]

theorem Memory.read_insert_ne (m : Memory) (v : Byte) {a b : Nat} (h : b ≠ a) :
    Memory.read (Memory.insert m a v) b = Memory.read m b := by
  induction m with
  | nil => simp [Memory.insert, Memory.read, Ne.symm h]
  | cons c m ih =>
    by_cases hc : a < c.1
    · simp [Memory.insert, hc, Memory.read, Ne.symm h]
    · simp [Memory.insert, hc, Memory.read, ih]

theorem Memory.read_insert_same (m : Memory) (a : Nat) (v : Byte) (h : ∀ c ∈ m, c.1 ≠ a) :
    Memory.read (Memory.insert m a v) a = v := by
  induction m with
  | nil => simp [Memory.insert, Memory.read]
  | cons c m ih =>
    have hm : ∀ d ∈ m, d.1 ≠ a := fun d hd => h d (List.mem_cons_of_mem _ hd)
    by_cases hc : a < c.1
    · simp [Memory.insert, hc, Memory.read]
    · simp [Memory.insert, hc, Memory.read, ih hm, h c List.mem_cons_self]

/-- A read of the address just written gives the byte written. -/
@[simp] theorem Memory.read_write_same (m : Memory) (a : Nat) (v : Byte) :
    Memory.read (Memory.write m a v) a = v := by
  unfold Memory.write
  split
  · rename_i h; rw [Memory.read_filter_same, h]
  · refine Memory.read_insert_same _ _ _ fun c hc => ?_
    simpa using (List.mem_filter.mp hc).2

/-- A write leaves every other address alone. -/
@[simp] theorem Memory.read_write_ne (m : Memory) (v : Byte) {a b : Nat} (h : b ≠ a) :
    Memory.read (Memory.write m a v) b = Memory.read m b := by
  unfold Memory.write
  split
  · exact Memory.read_filter_ne m h
  · rw [Memory.read_insert_ne _ _ h, Memory.read_filter_ne m h]

/-- A range write leaves every address outside the range alone. -/
theorem Memory.read_writeBytes_outside (m : Memory) (a : Nat) (bs : List Byte) {b : Nat}
    (h : b < a ∨ a + bs.length ≤ b) : Memory.read (Memory.writeBytes m a bs) b = Memory.read m b := by
  induction bs generalizing m a with
  | nil => rfl
  | cons v bs ih =>
    simp only [List.length_cons] at h
    rw [Memory.writeBytes, ih _ _ (by omega), Memory.read_write_ne _ _ (by omega)]

/-- A range write puts the `k`-th byte of the list at the `k`-th address. -/
theorem Memory.read_writeBytes_inside (m : Memory) (a : Nat) (bs : List Byte) (k : Nat) (h : k < bs.length) :
    Memory.read (Memory.writeBytes m a bs) (a + k) = bs[k] := by
  induction bs generalizing m a k with
  | nil => exact absurd h (by simp)
  | cons v bs ih =>
    cases k with
    | zero => rw [Memory.writeBytes, Memory.read_writeBytes_outside _ _ _ (by omega)]; simp
    | succ k =>
      have hk : k < bs.length := by simpa using h
      rw [Memory.writeBytes, show a + (k + 1) = a + 1 + k by omega, ih _ _ _ hk]
      simp

/-- Everything a range write can do to one byte. -/
theorem Memory.read_writeBytes (m : Memory) (a : Nat) (bs : List Byte) (b : Nat) :
    Memory.read (Memory.writeBytes m a bs) b =
      if h : a ≤ b ∧ b - a < bs.length then bs[b - a]'h.2 else Memory.read m b := by
  split
  · rename_i h
    rw [← Memory.read_writeBytes_inside m a bs (b - a) h.2, show a + (b - a) = b by omega]
  · rename_i h
    exact Memory.read_writeBytes_outside _ _ _ (by omega)

@[simp] theorem Memory.length_readBytes (m : Memory) (a n : Nat) : (Memory.readBytes m a n).length = n := by
  induction n generalizing a with
  | zero => rfl
  | succ n ih => simp [Memory.readBytes, ih]

@[simp] theorem Memory.getElem_readBytes (m : Memory) (a n k : Nat) (h : k < (Memory.readBytes m a n).length) :
    (Memory.readBytes m a n)[k] = Memory.read m (a + k) := by
  induction n generalizing a k with
  | zero => simp at h
  | succ n ih =>
    cases k with
    | zero => rfl
    | succ k =>
      simp only [Memory.readBytes, List.getElem_cons_succ]
      rw [ih, show a + 1 + k = a + (k + 1) by omega]

/-! ## The canonical form -/

/-- The canonical form, said with a list predicate. -/
theorem Memory.rising_iff (m : Memory) : Memory.rising m = true ↔ m.Pairwise (fun c d => c.1 < d.1) := by
  induction m with
  | nil => simp [Memory.rising]
  | cons c m ih =>
    cases m with
    | nil => simp [Memory.rising]
    | cons d m =>
      simp only [Memory.rising, Bool.and_eq_true, decide_eq_true_eq, ih, List.pairwise_cons]
      constructor
      · rintro ⟨h, hd, hm⟩
        exact ⟨fun e he => by
          rcases List.mem_cons.mp he with rfl | he
          · exact h
          · exact h.trans (hd e he), hd, hm⟩
      · rintro ⟨h, hd, hm⟩
        exact ⟨h d List.mem_cons_self, hd, hm⟩

theorem Memory.wf_iff (m : Memory) :
    m.wf = true ↔ m.Pairwise (fun c d => c.1 < d.1) ∧
      ∀ c ∈ m, c.1 < Config.memSize ∧ c.2 ≠ Memory.unlisted c.1 := by
  simp [Memory.wf, Memory.rising_iff]

theorem Memory.mem_insert (m : Memory) (a : Nat) (v : Byte) (c : Host.Cell) :
    c ∈ Memory.insert m a v ↔ c = (a, v) ∨ c ∈ m := by
  induction m with
  | nil => simp [Memory.insert]
  | cons d m ih =>
    by_cases hd : a < d.1
    · simp [Memory.insert, hd]
    · simp [Memory.insert, hd, ih, or_left_comm]

theorem Memory.pairwise_insert (m : Memory) (a : Nat) (v : Byte) (hm : m.Pairwise (fun c d => c.1 < d.1))
    (ha : ∀ c ∈ m, c.1 ≠ a) : (Memory.insert m a v).Pairwise (fun c d => c.1 < d.1) := by
  induction m with
  | nil => simp [Memory.insert]
  | cons d m ih =>
    rw [List.pairwise_cons] at hm
    by_cases hd : a < d.1
    · simp only [Memory.insert, hd, if_true, List.pairwise_cons]
      refine ⟨fun e he => ?_, hm⟩
      rcases List.mem_cons.mp he with rfl | he
      · exact hd
      · exact hd.trans (hm.1 e he)
    · simp only [Memory.insert, hd, if_false, List.pairwise_cons]
      refine ⟨fun e he => ?_, ih hm.2 fun c hc => ha c (List.mem_cons_of_mem _ hc)⟩
      rcases (Memory.mem_insert m a v e).mp he with rfl | he
      · exact lt_of_le_of_ne (Nat.le_of_not_lt hd) (ha d List.mem_cons_self)
      · exact hm.1 e he

/-- A write inside memory keeps the canonical form. -/
theorem Memory.wf_write (m : Memory) (a : Nat) (v : Byte) (hm : m.wf = true) (ha : a < Config.memSize) :
    (Memory.write m a v).wf = true := by
  rw [Memory.wf_iff] at hm ⊢
  have hf : (m.filter (fun c => c.1 != a)).Pairwise (fun c d => c.1 < d.1) := hm.1.filter _
  have hin : ∀ c ∈ m.filter (fun c => c.1 != a), c ∈ m ∧ c.1 ≠ a := fun c hc => by
    simpa using List.mem_filter.mp hc
  unfold Memory.write
  split
  · exact ⟨hf, fun c hc => hm.2 c (hin c hc).1⟩
  · rename_i hv
    refine ⟨Memory.pairwise_insert _ _ _ hf fun c hc => (hin c hc).2, fun c hc => ?_⟩
    rcases (Memory.mem_insert _ _ _ _).mp hc with rfl | hc
    · exact ⟨ha, hv⟩
    · exact hm.2 c (hin c hc).1

/-- A range write inside memory keeps the canonical form. -/
theorem Memory.wf_writeBytes (m : Memory) (a : Nat) (bs : List Byte) (hm : m.wf = true)
    (h : a + bs.length ≤ Config.memSize) : (Memory.writeBytes m a bs).wf = true := by
  induction bs generalizing m a with
  | nil => exact hm
  | cons v bs ih =>
    simp only [List.length_cons] at h
    exact ih _ _ (Memory.wf_write m a v hm (by omega)) (by omega)

/-- The memory after reset, which lists nothing, is in canonical form. -/
theorem Memory.wf_reset : State.reset.mem.wf = true := by decide

end Sys2Proof.Machine
end

