-- ==== Sys2Proof/Laws/Ops.lean ====
section
/-!
SUPPORT. One law for each shared operation over registers, stack, keypad, framebuffer, faults and fetch: everything
the operation can do.
-/

namespace Sys2Proof.Machine

/-! ## Faults -/

theorem takeFault_eq (c : FaultCause) (op : Word) (s : State) :
    takeFault c op s = .next { s with halt := true, fault := ⟨c, s.pc, op⟩ } := rfl

@[simp] theorem checked_true (c : FaultCause) (i : Instr) (s t : State) : checked true c i s t = .next t := rfl

@[simp] theorem checked_false (c : FaultCause) (i : Instr) (s t : State) :
    checked false c i s t = .next (s.latch c (encode i)) := rfl

/-- An instruction with a check completes or takes its fault; it never stops otherwise. -/
theorem checked_cases {ok : Bool} {c : FaultCause} {i : Instr} {s t u : State} (h : checked ok c i s t = .next u) :
    (ok = true ∧ u = t) ∨ (ok = false ∧ u = s.latch c (encode i)) := by
  cases ok
  · exact .inr ⟨rfl, (Host.Outcome.next.inj h).symm⟩
  · exact .inl ⟨rfl, (Host.Outcome.next.inj h).symm⟩

/-! ## Program counter -/

/-- A skip test after the fetch's advance: `PC` is `pc0 + 4` or `pc0 + 2` (spec/40_control.md R89). -/
theorem State.skipIf_advance (s : State) (c : Bool) :
    s.advance.skipIf c = { s with pc := if c then s.pc + 4 else s.pc + 2 } := by
  cases c
  · rfl
  · have h : s.pc + 2 + 2 = s.pc + 4 := BitVec.add_assoc s.pc 2 2
    simp only [State.skipIf, State.advance, State.setPc, h, if_true]

/-! ## Stack -/

theorem State.push?_of_lt (s : State) (w : Word) (h : s.sp.val < 16) :
    s.push? w = some { s with stk := s.stk.set s.sp.val w h, sp := ⟨s.sp.val + 1, by omega⟩ } := by
  simp [State.push?, h]

theorem State.push?_of_full (s : State) (w : Word) (h : s.sp.val = 16) : s.push? w = none := by
  simp [State.push?, h]

/-- Everything a push can do. -/
theorem State.push?_cases {s t : State} {w : Word} (h : s.push? w = some t) :
    ∃ hs : s.sp.val < 16,
      t = { s with stk := s.stk.set s.sp.val w hs, sp := ⟨s.sp.val + 1, by omega⟩ } := by
  unfold State.push? at h
  split at h
  · rename_i hs; exact ⟨hs, (Option.some.inj h).symm⟩
  · simp at h

theorem State.pop?_of_empty (s : State) (h : s.sp.val = 0) : s.pop? = none := by
  simp [State.pop?, h]

theorem State.pop?_of_succ (s : State) (k : Fin 16) (h : s.sp.val = k.val + 1) :
    s.pop? = some (s.stk[k.val], { s with sp := k.castSucc }) := by
  have hp : 0 < s.sp.val := by omega
  have hk : s.sp.val - 1 = k.val := by omega
  simp [State.pop?, hp, hk, Fin.castSucc, Fin.castAdd, Fin.castLE]

/-- Everything a pop can do. -/
theorem State.pop?_cases {s t : State} {w : Word} (h : s.pop? = some (w, t)) :
    ∃ k : Fin 16, s.sp.val = k.val + 1 ∧ w = s.stk[k.val] ∧ t = { s with sp := k.castSucc } := by
  unfold State.pop? at h
  split at h
  · rename_i hp
    have hlt := s.sp.isLt
    obtain ⟨rfl, rfl⟩ := Prod.mk.inj (Option.some.inj h)
    exact ⟨⟨s.sp.val - 1, by omega⟩, by simp; omega, rfl, rfl⟩
  · simp at h

/-! ## Keypad -/

theorem State.lowestKey?_eq_none (s : State) : s.lowestKey? = none ↔ ∀ k : Fin 16, s.key k = false := by
  simp [State.lowestKey?]

/-- The key found is pressed, and no lower one is. -/
theorem State.lowestKey?_eq_some (s : State) (k : Fin 16) :
    s.lowestKey? = some k ↔ s.key k = true ∧ ∀ j : Fin 16, j < k → s.key j = false := by
  have key : ∀ p : Fin 16 → Bool,
      (List.finRange 16).find? p = some k ↔ p k = true ∧ ∀ j : Fin 16, j < k → p j = false := by
    intro p
    rw [List.find?_eq_some_iff_getElem]
    simp only [List.getElem_finRange, List.length_finRange, Bool.not_eq_true']
    constructor
    · rintro ⟨hp, i, hi, rfl, hj⟩
      refine ⟨hp, fun j hjk => ?_⟩
      simpa using hj j.val (by simpa [Fin.lt_def] using hjk)
    · rintro ⟨hp, hj⟩
      refine ⟨hp, k.val, k.isLt, by simp, fun j hjk => ?_⟩
      exact hj ⟨j, by omega⟩ (by simpa [Fin.lt_def] using hjk)
  exact key _

theorem State.setKey_of_lt (s : State) (index : Nat) (b : Bool) (h : index < 16) :
    s.setKey index b = { s with keys := s.keys.set index b h } := by simp [State.setKey, h]

theorem State.setKey_of_ge (s : State) (index : Nat) (b : Bool) (h : 16 ≤ index) : s.setKey index b = s := by
  simp [State.setKey, Nat.not_lt.mpr h]

/-! ## Framebuffer -/

/-- A toggle inverts its own cell and leaves every other one alone. -/
theorem FrameBuffer.cell_toggle (fb : FrameBuffer) (x px : Fin 64) (y py : Fin 32) :
    FrameBuffer.cell (FrameBuffer.toggle fb x y) px py =
      if px = x ∧ py = y then !FrameBuffer.cell fb px py else FrameBuffer.cell fb px py := by
  unfold FrameBuffer.cell FrameBuffer.toggle
  by_cases hy : py = y
  · subst hy
    by_cases hx : px = x
    · subst hx; simp
    · have : x.val ≠ px.val := fun e => hx (Fin.ext e.symm)
      simp [hx, this]
  · have : y.val ≠ py.val := fun e => hy (Fin.ext e.symm)
    simp [hy, this]

@[simp] theorem FrameBuffer.cell_clear (px : Fin 64) (py : Fin 32) :
    FrameBuffer.cell FrameBuffer.clear px py = false := by
  simp [FrameBuffer.cell, FrameBuffer.clear]

/-- Framebuffers with equal cells are equal. -/
theorem FrameBuffer.ext_cell {fb gb : FrameBuffer}
    (h : ∀ (px : Fin 64) (py : Fin 32), FrameBuffer.cell fb px py = FrameBuffer.cell gb px py) : fb = gb := by
  refine Vector.ext fun y hy => Vector.ext fun x hx => ?_
  exact h ⟨x, hx⟩ ⟨y, hy⟩

/-! ## Fetch -/

theorem State.fetch?_of_le (s : State) (h : s.pc.toNat ≤ 0xFFE) :
    s.fetch? = some (wordOf (s.mem.read s.pc.toNat) (s.mem.read (s.pc.toNat + 1))) := by
  simp [State.fetch?, h]

theorem State.fetch?_of_gt (s : State) (h : 0xFFE < s.pc.toNat) : s.fetch? = none := by
  simp [State.fetch?, Nat.not_le.mpr h]

theorem State.fetch?_eq_some {s : State} {op : Word} (h : s.fetch? = some op) :
    s.pc.toNat ≤ 0xFFE ∧ op = wordOf (s.mem.read s.pc.toNat) (s.mem.read (s.pc.toNat + 1)) := by
  unfold State.fetch? at h
  split at h
  · exact ⟨by assumption, (Option.some.inj h).symm⟩
  · simp at h

end Sys2Proof.Machine
end

