-- ==== Sys2Proof/Laws/Operands.lean ====
section
/-!
SUPPORT. One law for each operand form: the range check, the register range, the key index, the sprite and the draw.
-/

namespace Sys2Proof.Machine

/-- The check of a range is on its highest address, and an empty range is not checked
(spec/20_memory.md R45). -/
theorem State.rangeOk_iff (s : State) (n : Nat) :
    s.rangeOk n = true ↔ n = 0 ∨ s.i.toNat + (n - 1) ≤ 0xFFF := by
  simp only [State.rangeOk, Bool.or_eq_true, beq_iff_eq, decide_eq_true_eq]
  exact Iff.rfl

@[simp] theorem State.length_regsUpTo (s : State) (x : Reg) : (s.regsUpTo x).length = x.val + 1 := by
  have := x.isLt
  simp only [State.regsUpTo, List.length_take, Vector.length_toList]
  omega

@[simp] theorem State.getElem_regsUpTo (s : State) (x : Reg) (k : Nat) (h : k < (s.regsUpTo x).length) :
    (s.regsUpTo x)[k] = s.getV ⟨k, by have := x.isLt; simp at h; omega⟩ := by
  simp [State.regsUpTo, State.getV]

/-- Everything a range load does to one register. -/
theorem getElem_loadRegs (v : Vector Byte 16) (k : Nat) (bs : List Byte) (j : Nat) (hj : j < 16) :
    (loadRegs v k bs)[j] = if h : k ≤ j ∧ j - k < bs.length then bs[j - k]'h.2 else v[j] := by
  induction bs generalizing v k with
  | nil => simp [loadRegs]
  | cons b bs ih =>
    by_cases hk : k < 16
    · simp only [loadRegs, hk, dif_pos, ih]
      rcases Nat.lt_trichotomy j k with h | h | h
      · rw [dif_neg (by omega), dif_neg (by omega), Vector.getElem_set_ne _ _ (by omega)]
      · subst h; simp
      · have e : j - k = (j - (k + 1)) + 1 := by omega
        by_cases hb : j - (k + 1) < bs.length
        · rw [dif_pos ⟨by omega, hb⟩, dif_pos ⟨by omega, by simp; omega⟩]
          simp [e]
        · rw [dif_neg (by omega), dif_neg (by simp; omega), Vector.getElem_set_ne _ _ (by omega)]
    · have e : loadRegs v k (b :: bs) = v := dif_neg hk
      simp only [e]
      rw [dif_neg (by omega)]

/-- Register `k` after a range load. -/
theorem State.getV_setRegs (s : State) (bs : List Byte) (k : Reg) :
    (s.setRegs bs).getV k = if h : k.val < bs.length then bs[k.val] else s.getV k := by
  have := getElem_loadRegs s.v 0 bs k.val k.isLt
  simpa [State.getV, State.setRegs] using this

theorem keyIndex?_of_lt (b : Byte) (k : Fin 16) (h : b.toNat = k.val) : keyIndex? b = some k := by
  simp [keyIndex?, h]

theorem keyIndex?_of_ge (b : Byte) (h : 15 < b.toNat) : keyIndex? b = none := by
  simp [keyIndex?]; omega

theorem keyIndex?_cases (b : Byte) :
    (∃ k : Fin 16, b.toNat = k.val ∧ keyIndex? b = some k) ∨ (15 < b.toNat ∧ keyIndex? b = none) := by
  by_cases h : b.toNat < 16
  · exact .inl ⟨⟨b.toNat, h⟩, rfl, by simp [keyIndex?, h]⟩
  · exact .inr ⟨by omega, by simp [keyIndex?, h]⟩

@[simp] theorem length_decimalDigits (b : Byte) : (decimalDigits b).length = 3 := rfl

/-! ## Sprites -/

/-- The cells of one sprite row. -/
theorem mem_spriteRow (x0 y0 r : Nat) (b : Byte) (p : Fin 64 × Fin 32) :
    p ∈ spriteRow x0 y0 r b ↔
      ∃ c, c < 8 ∧ b.getLsbD (7 - c) = true ∧ p.1.val = (x0 + c) % 64 ∧ p.2.val = (y0 + r) % 32 := by
  simp only [spriteRow, List.mem_filterMap, List.mem_range]
  constructor
  · rintro ⟨c, hc, h⟩
    split at h
    · rename_i hb
      obtain rfl := Option.some.inj h
      exact ⟨c, hc, hb, rfl, rfl⟩
    · simp at h
  · rintro ⟨c, hc, hb, h1, h2⟩
    exact ⟨c, hc, by rw [if_pos hb]; congr 1; exact Prod.ext (Fin.ext h1.symm) (Fin.ext h2.symm)⟩

/-- The cells of a sprite. -/
theorem mem_spriteRows (x0 y0 r : Nat) (bs : List Byte) (p : Fin 64 × Fin 32) :
    p ∈ spriteRows x0 y0 r bs ↔
      ∃ (k : Nat) (h : k < bs.length) (c : Nat), c < 8 ∧ bs[k].getLsbD (7 - c) = true ∧
        p.1.val = (x0 + c) % 64 ∧ p.2.val = (y0 + (r + k)) % 32 := by
  induction bs generalizing r with
  | nil => simp [spriteRows]
  | cons b bs ih =>
    rw [spriteRows, List.mem_append, mem_spriteRow, ih]
    constructor
    · rintro (⟨c, hc, hb, h1, h2⟩ | ⟨k, hk, c, hc, hb, h1, h2⟩)
      · exact ⟨0, by simp, c, hc, hb, h1, h2⟩
      · exact ⟨k + 1, by simpa using hk, c, hc, by simpa using hb, h1, by
          rw [h2]; congr 1; omega⟩
    · rintro ⟨k, hk, c, hc, hb, h1, h2⟩
      cases k with
      | zero => exact .inl ⟨c, hc, hb, h1, h2⟩
      | succ k =>
        exact .inr ⟨k, by simpa using hk, c, hc, by simpa using hb, h1, by rw [h2]; congr 1; omega⟩

/-- No cell is visited twice by one row: the offsets 0 to 7 fall on different columns. -/
theorem nodup_spriteRow (x0 y0 r : Nat) (b : Byte) : (spriteRow x0 y0 r b).Nodup := by
  unfold spriteRow List.Nodup
  rw [List.pairwise_filterMap]
  refine (List.pairwise_lt_range (n := 8)).imp_of_mem fun {c d} hc hd hcd p hp q hq e => ?_
  subst e
  have hc8 := List.mem_range.mp hc
  have hd8 := List.mem_range.mp hd
  split at hp <;> split at hq <;> simp_all
  have := congrArg (fun z : Fin 64 × Fin 32 => z.1.val) (hp.trans hq.symm)
  simp only at this
  omega

/-- No cell is visited twice by a draw of at most 32 rows (the corner case of spec/43_display.md R142). -/
theorem nodup_spriteRows (x0 y0 r : Nat) (bs : List Byte) (h : bs.length ≤ 32) :
    (spriteRows x0 y0 r bs).Nodup := by
  induction bs generalizing r with
  | nil => simp [spriteRows]
  | cons b bs ih =>
    simp only [List.length_cons] at h
    refine List.nodup_append.mpr ⟨nodup_spriteRow .., ih _ (by omega), fun p hp q hq e => ?_⟩
    subst e
    obtain ⟨_, _, _, _, h1⟩ := (mem_spriteRow ..).mp hp
    obtain ⟨k, hk, _, _, _, _, h2⟩ := (mem_spriteRows ..).mp hq
    omega

/-! ## Draws -/

theorem drawCells_foldl (cs : List (Fin 64 × Fin 32)) (hn : cs.Nodup) (fb : FrameBuffer) (col : Bool) :
    (∀ px py, FrameBuffer.cell (cs.foldl drawCell (fb, col)).1 px py =
      if (px, py) ∈ cs then !FrameBuffer.cell fb px py else FrameBuffer.cell fb px py) ∧
    ((cs.foldl drawCell (fb, col)).2 = true ↔ col = true ∨ ∃ p ∈ cs, FrameBuffer.cell fb p.1 p.2 = true) := by
  induction cs generalizing fb col with
  | nil => simp
  | cons c cs ih =>
    rw [List.nodup_cons] at hn
    obtain ⟨ih1, ih2⟩ := ih hn.2 (FrameBuffer.toggle fb c.1 c.2) (col || FrameBuffer.cell fb c.1 c.2)
    simp only [List.foldl_cons]
    refine ⟨fun px py => ?_, ?_⟩
    · rw [show drawCell (fb, col) c = (FrameBuffer.toggle fb c.1 c.2, col || FrameBuffer.cell fb c.1 c.2) from rfl,
        ih1, FrameBuffer.cell_toggle]
      by_cases hc : (px, py) = c
      · subst hc; simp [hn.1]
      · have : ¬(px = c.1 ∧ py = c.2) := fun e => hc (Prod.ext e.1 e.2)
        simp [hc, this]
    · rw [show drawCell (fb, col) c = (FrameBuffer.toggle fb c.1 c.2, col || FrameBuffer.cell fb c.1 c.2) from rfl, ih2]
      have tog : ∀ p ∈ cs, FrameBuffer.cell (FrameBuffer.toggle fb c.1 c.2) p.1 p.2 = FrameBuffer.cell fb p.1 p.2 := by
        intro p hp
        have : ¬(p.1 = c.1 ∧ p.2 = c.2) := fun e => hn.1 ((Prod.ext e.1 e.2 : p = c) ▸ hp)
        rw [FrameBuffer.cell_toggle, if_neg this]
      have ex : (∃ p ∈ cs, FrameBuffer.cell (FrameBuffer.toggle fb c.1 c.2) p.1 p.2 = true) ↔
          ∃ p ∈ cs, FrameBuffer.cell fb p.1 p.2 = true :=
        exists_congr fun p => and_congr_right fun hp => by rw [tog p hp]
      rw [ex]
      simp [or_assoc]

/-- Everything a draw of distinct cells does: each of them is toggled, no other cell changes, and there is a collision
exactly if one of them was lit. -/
theorem drawCells_spec (fb : FrameBuffer) (cs : List (Fin 64 × Fin 32)) (hn : cs.Nodup) :
    (∀ px py, FrameBuffer.cell (drawCells fb cs).1 px py =
      if (px, py) ∈ cs then !FrameBuffer.cell fb px py else FrameBuffer.cell fb px py) ∧
    ((drawCells fb cs).2 = true ↔ ∃ p ∈ cs, FrameBuffer.cell fb p.1 p.2 = true) := by
  have := drawCells_foldl cs hn fb false
  simpa [drawCells] using this

/-- The cells of `DRW Vx, Vy, n` are those its sprite covers, none twice. -/
theorem State.spriteCells_spec (s : State) (x y : Reg) (n : Nibble) :
    (s.spriteCells x y n).Nodup ∧ ∀ px py, (px, py) ∈ s.spriteCells x y n ↔
      ∃ r c : Nat, r < n.toNat ∧ c < 8 ∧
        px.val = ((s.getV x).toNat % 64 + c) % 64 ∧ py.val = ((s.getV y).toNat % 32 + r) % 32 ∧
        (s.mem.read (s.i.toNat + r)).getLsbD (7 - c) = true := by
  refine ⟨nodup_spriteRows _ _ _ _ (by have := n.isLt; simp; omega), fun px py => ?_⟩
  rw [State.spriteCells, mem_spriteRows]
  simp only [Memory.length_readBytes, Memory.getElem_readBytes, State.effAddr, Nat.add_zero, Nat.zero_add]
  constructor
  · rintro ⟨r, hr, c, hc, hb, h1, h2⟩; exact ⟨r, c, hr, hc, h1, h2, hb⟩
  · rintro ⟨r, c, hr, hc, h1, h2, hb⟩; exact ⟨r, hr, c, hc, hb, h1, h2⟩

end Sys2Proof.Machine
end

