-- ==== Sys2Proof/Laws/PerInstr.lean ====
section
/-!
SUPPORT. The per-instruction family `EncodingSelectsRow`: the word the encoder builds for an instruction selects that
instruction's own row of the opcode map (spec/30_encoding.md R63), which is written independently of the encoder.
-/

namespace Sys2Proof.Laws.EncodingSelectsRow

/-- The word of `i` selects the row of the opcode map that `i` stands for. -/
def Statement (i : Instr) : Prop := ∃ r ∈ opcodeTable, r.number = i.row ∧ r.selects (encode i) = true

/-- The witness of a row: a member of the map with the number and a word it selects. -/
theorem of_row {i : Instr} (r : OpcodeRow) (hm : r ∈ opcodeTable) (hn : r.number = i.row)
    (h : encode i &&& r.mask = r.pattern) : Statement i :=
  ⟨r, hm, hn, by simp [OpcodeRow.selects, h]⟩

theorem nop : Statement .nop :=
  of_row opcodeTable[0] (by decide) rfl (by decide)

theorem cls : Statement .cls :=
  of_row opcodeTable[1] (by decide) rfl (by decide)

theorem ret : Statement .ret :=
  of_row opcodeTable[2] (by decide) rfl (by decide)

theorem jp (nnn : Addr) : Statement (.jp nnn) :=
  of_row opcodeTable[3] (by decide) rfl ((encodeNNN_and_F000 ..).trans (by decide))

theorem call (nnn : Addr) : Statement (.call nnn) :=
  of_row opcodeTable[4] (by decide) rfl ((encodeNNN_and_F000 ..).trans (by decide))

theorem seImm (x : Reg) (nn : Byte) : Statement (.seImm x nn) :=
  of_row opcodeTable[5] (by decide) rfl ((encodeXNN_and_F000 ..).trans (by decide))

theorem sneImm (x : Reg) (nn : Byte) : Statement (.sneImm x nn) :=
  of_row opcodeTable[6] (by decide) rfl ((encodeXNN_and_F000 ..).trans (by decide))

theorem seReg (x y : Reg) : Statement (.seReg x y) :=
  of_row opcodeTable[7] (by decide) rfl ((encodeXYN_and_F00F ..).trans (by decide))

theorem ldImm (x : Reg) (nn : Byte) : Statement (.ldImm x nn) :=
  of_row opcodeTable[8] (by decide) rfl ((encodeXNN_and_F000 ..).trans (by decide))

theorem addImm (x : Reg) (nn : Byte) : Statement (.addImm x nn) :=
  of_row opcodeTable[9] (by decide) rfl ((encodeXNN_and_F000 ..).trans (by decide))

theorem ldReg (x y : Reg) : Statement (.ldReg x y) :=
  of_row opcodeTable[10] (by decide) rfl ((encodeXYN_and_F00F ..).trans (by decide))

theorem orReg (x y : Reg) : Statement (.orReg x y) :=
  of_row opcodeTable[11] (by decide) rfl ((encodeXYN_and_F00F ..).trans (by decide))

theorem andReg (x y : Reg) : Statement (.andReg x y) :=
  of_row opcodeTable[12] (by decide) rfl ((encodeXYN_and_F00F ..).trans (by decide))

theorem xorReg (x y : Reg) : Statement (.xorReg x y) :=
  of_row opcodeTable[13] (by decide) rfl ((encodeXYN_and_F00F ..).trans (by decide))

theorem addReg (x y : Reg) : Statement (.addReg x y) :=
  of_row opcodeTable[14] (by decide) rfl ((encodeXYN_and_F00F ..).trans (by decide))

theorem subReg (x y : Reg) : Statement (.subReg x y) :=
  of_row opcodeTable[15] (by decide) rfl ((encodeXYN_and_F00F ..).trans (by decide))

theorem shr (x y : Reg) : Statement (.shr x y) :=
  of_row opcodeTable[16] (by decide) rfl ((encodeXYN_and_F00F ..).trans (by decide))

theorem subnReg (x y : Reg) : Statement (.subnReg x y) :=
  of_row opcodeTable[17] (by decide) rfl ((encodeXYN_and_F00F ..).trans (by decide))

theorem shl (x y : Reg) : Statement (.shl x y) :=
  of_row opcodeTable[18] (by decide) rfl ((encodeXYN_and_F00F ..).trans (by decide))

theorem sneReg (x y : Reg) : Statement (.sneReg x y) :=
  of_row opcodeTable[19] (by decide) rfl ((encodeXYN_and_F00F ..).trans (by decide))

theorem ldI (nnn : Addr) : Statement (.ldI nnn) :=
  of_row opcodeTable[20] (by decide) rfl ((encodeNNN_and_F000 ..).trans (by decide))

theorem jpV0 (nnn : Addr) : Statement (.jpV0 nnn) :=
  of_row opcodeTable[21] (by decide) rfl ((encodeNNN_and_F000 ..).trans (by decide))

theorem rnd (x : Reg) (nn : Byte) : Statement (.rnd x nn) :=
  of_row opcodeTable[22] (by decide) rfl ((encodeXNN_and_F000 ..).trans (by decide))

theorem drw (x y : Reg) (n : Nibble) : Statement (.drw x y n) :=
  of_row opcodeTable[23] (by decide) rfl ((encodeXYN_and_F000 ..).trans (by decide))

theorem skp (x : Reg) : Statement (.skp x) :=
  of_row opcodeTable[24] (by decide) rfl ((encodeXNN_and_F0FF ..).trans (by decide))

theorem sknp (x : Reg) : Statement (.sknp x) :=
  of_row opcodeTable[25] (by decide) rfl ((encodeXNN_and_F0FF ..).trans (by decide))

theorem ldFromDT (x : Reg) : Statement (.ldFromDT x) :=
  of_row opcodeTable[26] (by decide) rfl ((encodeXNN_and_F0FF ..).trans (by decide))

theorem ldKey (x : Reg) : Statement (.ldKey x) :=
  of_row opcodeTable[27] (by decide) rfl ((encodeXNN_and_F0FF ..).trans (by decide))

theorem ldToDT (x : Reg) : Statement (.ldToDT x) :=
  of_row opcodeTable[28] (by decide) rfl ((encodeXNN_and_F0FF ..).trans (by decide))

theorem ldToST (x : Reg) : Statement (.ldToST x) :=
  of_row opcodeTable[29] (by decide) rfl ((encodeXNN_and_F0FF ..).trans (by decide))

theorem addI (x : Reg) : Statement (.addI x) :=
  of_row opcodeTable[30] (by decide) rfl ((encodeXNN_and_F0FF ..).trans (by decide))

theorem ldF (x : Reg) : Statement (.ldF x) :=
  of_row opcodeTable[31] (by decide) rfl ((encodeXNN_and_F0FF ..).trans (by decide))

theorem ldB (x : Reg) : Statement (.ldB x) :=
  of_row opcodeTable[32] (by decide) rfl ((encodeXNN_and_F0FF ..).trans (by decide))

theorem storeRange (x : Reg) : Statement (.storeRange x) :=
  of_row opcodeTable[33] (by decide) rfl ((encodeXNN_and_F0FF ..).trans (by decide))

theorem loadRange (x : Reg) : Statement (.loadRange x) :=
  of_row opcodeTable[34] (by decide) rfl ((encodeXNN_and_F0FF ..).trans (by decide))

end Sys2Proof.Laws.EncodingSelectsRow
end

