-- ==== Sys2Proof/Laws/Step.lean ====
section
/-!
SUPPORT. What a STEP can do: its four cases, and the cases of the two shared forms an instruction ends in.
-/

namespace Sys2Proof.Machine

theorem step_halted {s : State} (h : s.halt = true) : step s = .next s := by simp [step, h]

theorem step_fetch_fault {s : State} (h : s.halt = false) (hp : 0xFFE < s.pc.toNat) :
    step s = .next (s.latch .memoryOutOfBounds 0x0000#16) := by
  simp [step, h, State.fetch?_of_gt s hp, takeFault]

theorem step_of_reject {s : State} {op : Word} {e : DecodeReject} (h : s.halt = false) (hf : s.fetch? = some op)
    (hd : decode op = .error e) : step s = .next (s.latch .unrecognizedOpcode op) := by
  simp [step, h, hf, hd, takeFault]

theorem step_of_decode {s : State} {op : Word} {i : Instr} (h : s.halt = false) (hf : s.fetch? = some op)
    (hd : decode op = .ok i) : step s = exec i s := by
  simp [step, h, hf, hd]

/-- Everything a STEP can do (spec/60_exceptions.md R198): nothing while halted, a fault of the fetch or of the decode,
or the decoded instruction. -/
theorem step_cases {s t : State} (h : step s = .next t) :
    (s.halt = true ∧ t = s) ∨
    (s.halt = false ∧ 0xFFE < s.pc.toNat ∧ t = s.latch .memoryOutOfBounds 0x0000#16) ∨
    (∃ op e, s.halt = false ∧ s.fetch? = some op ∧ decode op = .error e ∧
      t = s.latch .unrecognizedOpcode op) ∨
    (∃ op i, s.halt = false ∧ s.fetch? = some op ∧ decode op = .ok i ∧ exec i s = .next t) := by
  cases hh : s.halt
  · cases hf : s.fetch? with
    | none =>
      have hp : 0xFFE < s.pc.toNat := by
        by_contra hp
        rw [State.fetch?_of_le s (by omega)] at hf
        exact absurd hf (by simp)
      rw [step_fetch_fault hh hp] at h
      exact .inr (.inl ⟨rfl, hp, (Host.Outcome.next.inj h).symm⟩)
    | some op =>
      cases hd : decode op with
      | error e =>
        rw [step_of_reject hh hf hd] at h
        exact .inr (.inr (.inl ⟨op, e, rfl, rfl, hd, (Host.Outcome.next.inj h).symm⟩))
      | ok i =>
        rw [step_of_decode hh hf hd] at h
        exact .inr (.inr (.inr ⟨op, i, rfl, rfl, hd, h⟩))
  · rw [step_halted hh] at h
    exact .inl ⟨rfl, (Host.Outcome.next.inj h).symm⟩

end Sys2Proof.Machine
end

