-- ==== Sys2Proof/Tests/Slice0.lean ====
section
/-!
SUPPORT. The model's own tests. Expected results are the spec's: the worked examples E1 to E9 and the vectors T1 to
T161 of spec/95_test_vectors.md, named in each comment, or the examples of the instruction rules. The last part gives,
for every statement with hypotheses, a state that meets them.
-/

namespace Sys2Proof.Tests

open Sys2Proof.Machine

/-- Whether the STEP that runs the instruction of bits `w` from `s` leaves a state with the property `p`. -/
def after (s : State) (w : Nat) (p : State → Bool) : Bool :=
  match step (s.withFetchWord 16 w) with
  | .next t => p t
  | _ => false

/-- Whether the STEP raises this fault: the record, `HALT`, and `PC` still at the instruction. -/
def faults (s : State) (w : Nat) (cause : FaultCause) (opcode : Word) : Bool :=
  after s w fun t => t.halt && t.fault == ⟨cause, s.pc, opcode⟩ && t.pc == s.pc && t.mem == (s.withFetchWord 16 w).mem

/-- The reset state with two registers set. -/
def regs2 (x : Reg) (a : Byte) (y : Reg) (b : Byte) : State := (State.reset.setV x a).setV y b

/-! ## Well-formed words (the checks of spec/30_encoding.md R63, R66, R67) -/

theorem test_wellFormed_accepts : [0x0000#16, 0x00E0#16, 0x00EE#16, 0x1205#16, 0x5AB0#16, 0x8126#16, 0xE2AE#16,
    0xF165#16].all wellFormedWord = true := by decide

theorem test_wellFormed_refuses_0nnn : wellFormedWord 0x0123#16 = false := by decide
theorem test_wellFormed_refuses_5xyn : wellFormedWord 0x5011#16 = false := by decide
theorem test_wellFormed_refuses_8xy8 : wellFormedWord 0x8128#16 = false := by decide
theorem test_wellFormed_refuses_9xyn : wellFormedWord 0x9AB1#16 = false := by decide
theorem test_wellFormed_refuses_ExA1 : wellFormedWord 0xE2A1#16 = false := by decide
theorem test_wellFormed_refuses_FxFF : wellFormedWord 0xF0FF#16 = false := by decide

/-- The opcode map has 35 rows, numbered in order (R63). -/
theorem test_opcode_rows : opcodeTable.map OpcodeRow.number = (List.range 35).map (· + 1) := by decide

/-! ## Decoding: a word of every row, written out from the patterns of R63 -/

theorem test_decode_fixed : decode 0b0000000000000000#16 = .ok .nop ∧ decode 0b0000000011100000#16 = .ok .cls ∧
    decode 0b0000000011101110#16 = .ok .ret := by decide

theorem test_decode_nnn : decode 0b0001001000000101#16 = .ok (.jp 0x205#12) ∧
    decode 0b0010101010111100#16 = .ok (.call 0xABC#12) ∧ decode 0b1010001100000000#16 = .ok (.ldI 0x300#12) ∧
    decode 0b1011111111111111#16 = .ok (.jpV0 0xFFF#12) := by decide

theorem test_decode_xnn : decode 0b0011101001000010#16 = .ok (.seImm 10 0x42#8) ∧
    decode 0b0100001100010001#16 = .ok (.sneImm 3 0x11#8) ∧ decode 0b0110101000101111#16 = .ok (.ldImm 10 0x2F#8) ∧
    decode 0b0111000000000010#16 = .ok (.addImm 0 0x02#8) ∧ decode 0b1100001100001111#16 = .ok (.rnd 3 0x0F#8) := by
  decide

theorem test_decode_xy : decode 0b0101000100100000#16 = .ok (.seReg 1 2) ∧
    decode 0b1001000100100000#16 = .ok (.sneReg 1 2) ∧ decode 0b1000000100100000#16 = .ok (.ldReg 1 2) ∧
    decode 0b1000000100100001#16 = .ok (.orReg 1 2) ∧ decode 0b1000000100100010#16 = .ok (.andReg 1 2) ∧
    decode 0b1000000100100011#16 = .ok (.xorReg 1 2) ∧ decode 0b1000000100100100#16 = .ok (.addReg 1 2) ∧
    decode 0b1000000100100101#16 = .ok (.subReg 1 2) ∧ decode 0b1000000100100110#16 = .ok (.shr 1 2) ∧
    decode 0b1000000100100111#16 = .ok (.subnReg 1 2) ∧ decode 0b1000000100101110#16 = .ok (.shl 1 2) := by decide

theorem test_decode_xyn : decode 0b1101101110100101#16 = .ok (.drw 11 10 0x5#4) := by decide

theorem test_decode_x : decode 0b1110001010011110#16 = .ok (.skp 2) ∧ decode 0b1110001010101110#16 = .ok (.sknp 2) ∧
    decode 0b1111001100000111#16 = .ok (.ldFromDT 3) ∧ decode 0b1111000100001010#16 = .ok (.ldKey 1) ∧
    decode 0b1111001100010101#16 = .ok (.ldToDT 3) ∧ decode 0b1111000000011000#16 = .ok (.ldToST 0) ∧
    decode 0b1111001000011110#16 = .ok (.addI 2) ∧ decode 0b1111010000101001#16 = .ok (.ldF 4) ∧
    decode 0b1111000000110011#16 = .ok (.ldB 0) ∧ decode 0b1111000101010101#16 = .ok (.storeRange 1) ∧
    decode 0b1111000101100101#16 = .ok (.loadRange 1) := by decide

/-- T150 to T154: unrecognized words are refused by name. -/
theorem test_decode_rejects : [0x8128#16, 0x5011#16, 0x9AB1#16, 0x00E1#16, 0x0001#16, 0x0123#16, 0xF0FF#16].all
    (fun op => decode op == reject op) = true := by decide

/-- T125: with the other value of `SKNP_LOW` the other word is `SKNP`. -/
theorem test_sknp_low : decodeWith 0x1#4 0xE2A1#16 = .ok (.sknp 2) ∧ decodeWith 0x1#4 0xE2AE#16 = reject 0xE2AE#16 ∧
    decode 0xE2A1#16 = reject 0xE2A1#16 := by decide

theorem test_decodeBytes : decodeBytes [0x12#8, 0x05#8, 0x00#8] = .ok (.jp 0x205#12, [0x00#8]) ∧
    decodeBytes [0x12#8] = .error .truncated := by decide

theorem test_decodeTableWord : decodeTableWord 16 0xF255 = some (.storeRange 2) ∧ decodeTableWord 16 0x8128 = none := by
  decide

/-! ## Control flow (spec/95_test_vectors.md section 2.1) -/

/-- T1. -/
theorem test_nop : step (State.reset.withFetchWord 16 0x0000) = .next (State.reset.setPc 0x202#16) := by rfl
/-- T2, E6. -/
theorem test_jp_odd : after State.reset 0x1205 (fun t => t.pc == 0x205#16) = true := by decide
/-- T4. -/
theorem test_call : after State.reset 0x2ABC
    (fun t => t.stk[0] == 0x0202#16 && t.sp == 1 && t.pc == 0xABC#16) = true := by decide
/-- T6. -/
theorem test_call_overflow : faults { State.reset with sp := 16 } 0x2ABC .stackOverflow 0x2ABC#16 = true := by decide
/-- T7. -/
theorem test_ret : after { State.reset with sp := 1, stk := State.reset.stk.set 0 0x0206#16 } 0x00EE
    (fun t => t.sp == 0 && t.pc == 0x206#16 && !t.halt) = true := by decide
/-- T8. -/
theorem test_ret_underflow : faults State.reset 0x00EE .stackUnderflow 0x00EE#16 = true := by decide
/-- T9, T10. -/
theorem test_seImm : after (State.reset.setV 10 0x42#8) 0x3A42 (fun t => t.pc == 0x204#16) = true ∧
    after (State.reset.setV 10 0x43#8) 0x3A42 (fun t => t.pc == 0x202#16) = true := by decide
/-- T11, T12. -/
theorem test_sneImm : after (State.reset.setV 10 0x42#8) 0x4A42 (fun t => t.pc == 0x202#16) = true ∧
    after (State.reset.setV 10 0x43#8) 0x4A42 (fun t => t.pc == 0x204#16) = true := by decide
/-- T13, T14. -/
theorem test_seReg : after (regs2 10 0x10#8 11 0x10#8) 0x5AB0 (fun t => t.pc == 0x204#16) = true ∧
    after (regs2 10 0x10#8 11 0x11#8) 0x5AB0 (fun t => t.pc == 0x202#16) = true := by decide
/-- T16, T17. -/
theorem test_sneReg : after (regs2 10 0x10#8 11 0x11#8) 0x9AB0 (fun t => t.pc == 0x204#16) = true ∧
    after (regs2 10 0x10#8 11 0x10#8) 0x9AB0 (fun t => t.pc == 0x202#16) = true := by decide
/-- T19: the sum is not masked. -/
theorem test_jpV0_unmasked : after (State.reset.setV 0 0xFF#8) 0xBFFF (fun t => t.pc == 0x10FE#16) = true := by decide
/-- T19, T21: the fetch outside memory faults. -/
theorem test_fetch_fault : step (State.reset.setPc 0xFFF#16) =
    .next ((State.reset.setPc 0xFFF#16).latch .memoryOutOfBounds 0x0000#16) := by rfl
/-- T20: a skip at the top of memory. -/
theorem test_skip_at_top : after (State.reset.setPc 0xFFE#16) 0x3000 (fun t => t.pc == 0x1002#16) = true := by decide

/-! ## ALU (section 2.2) -/

/-- T31. -/
theorem test_ldImm_vf : after State.reset 0x6F07 (fun t => t.getV 15 == 0x07#8) = true := by decide
/-- T32. -/
theorem test_addImm_no_carry : after (State.reset.setV 0 0xFF#8) 0x7002
    (fun t => t.getV 0 == 0x01#8 && t.getV 15 == 0x00#8) = true := by decide
/-- T34. -/
theorem test_ldReg : after (regs2 1 0x11#8 2 0x33#8) 0x8120 (fun t => t.getV 1 == 0x33#8) = true := by decide
/-- T35. -/
theorem test_orReg : after ((regs2 1 0xF0#8 2 0x0F#8).setV 15 0x55#8) 0x8121
    (fun t => t.getV 1 == 0xFF#8 && t.getV 15 == 0x55#8) = true := by decide
/-- T36. -/
theorem test_andReg : after ((regs2 1 0xF3#8 2 0x3C#8).setV 15 0x55#8) 0x8122
    (fun t => t.getV 1 == 0x30#8 && t.getV 15 == 0x55#8) = true := by decide
/-- T37. -/
theorem test_xorReg : after ((regs2 1 0xFF#8 2 0x0F#8).setV 15 0x55#8) 0x8123
    (fun t => t.getV 1 == 0xF0#8 && t.getV 15 == 0x55#8) = true := by decide
/-- T39. -/
theorem test_addReg_carry : after (regs2 1 0xFF#8 2 0x01#8) 0x8124
    (fun t => t.getV 1 == 0x00#8 && t.getV 15 == 0x01#8) = true := by decide
/-- T41: the flag write wins. -/
theorem test_addReg_vf : after (regs2 15 0xF0#8 1 0x20#8) 0x8F14 (fun t => t.getV 15 == 0x01#8) = true := by decide
/-- T44. -/
theorem test_subReg_borrow : after (regs2 1 0x05#8 2 0x07#8) 0x8125
    (fun t => t.getV 1 == 0xFE#8 && t.getV 15 == 0x00#8) = true := by decide
/-- T46. -/
theorem test_subReg_equal : after (regs2 1 0x07#8 2 0x07#8) 0x8125
    (fun t => t.getV 1 == 0x00#8 && t.getV 15 == 0x01#8) = true := by decide
/-- T49. -/
theorem test_shr_ignores_y : after (regs2 1 0x80#8 2 0xFF#8) 0x8126
    (fun t => t.getV 1 == 0x40#8 && t.getV 15 == 0x00#8 && t.getV 2 == 0xFF#8) = true := by decide
/-- T50. -/
theorem test_shr_vf : after (State.reset.setV 15 0x03#8) 0x8F06 (fun t => t.getV 15 == 0x01#8) = true := by decide
/-- T53. -/
theorem test_subnReg_borrow : after (regs2 1 0x07#8 2 0x05#8) 0x8127
    (fun t => t.getV 1 == 0xFE#8 && t.getV 15 == 0x00#8) = true := by decide
/-- T55. -/
theorem test_shl : after (State.reset.setV 1 0x81#8) 0x810E
    (fun t => t.getV 1 == 0x02#8 && t.getV 15 == 0x01#8) = true := by decide
/-- T58: for the draw 0xA7. -/
theorem test_rnd_masks : rndWith 3 0x0F#8 0xA7#8 State.reset = .next ((State.reset.drawn.advance).setV 3 0x07#8) := by rfl
/-- T59: with `nn = 0` the result is 0 for any draw. -/
theorem test_rnd_zero : ∀ s : State, ∃ t, exec (.rnd 3 0x00#8) s = .next t ∧ t.getV 3 = 0x00#8 := fun _ =>
  ⟨_, rfl, by simp⟩

/-! ## Index register and memory (section 2.3) -/

/-- T71. -/
theorem test_ldI : after State.reset 0xAFFF (fun t => t.i == 0x0FFF#16) = true := by decide
/-- T73. -/
theorem test_addI : after ((State.reset.setI 0x0FFF#16).setV 2 0x01#8) 0xF21E
    (fun t => t.i == 0x1000#16 && t.getV 15 == 0x00#8) = true := by decide
/-- T74. -/
theorem test_addI_wraps : after ((State.reset.setI 0xFFFF#16).setV 2 0x02#8) 0xF21E (fun t => t.i == 0x0001#16) = true := by
  decide
/-- T76: both modes. -/
theorem test_ldF : after (State.reset.setV 4 0x1F#8) 0xF429 (fun t => t.i == 0x004B#16) = true ∧
    glyphAddr .and5 0x1F#8 = 0x0005#16 := by decide
/-- T80: up to the top of memory. -/
theorem test_ldB : after ((State.reset.setI 0xFFD#16).setV 0 0xEA#8) 0xF033
    (fun t => t.mem.readBytes 0xFFD 3 == [0x02#8, 0x03#8, 0x04#8]) = true := by decide
/-- T81. -/
theorem test_ldB_fault : faults (State.reset.setI 0xFFE#16) 0xF033 .memoryOutOfBounds 0xF033#16 = true := by decide
/-- T84. -/
theorem test_storeRange : after (((regs2 0 0x01#8 1 0x02#8).setV 2 0x03#8).setI 0x400#16) 0xF255
    (fun t => t.mem.readBytes 0x400 4 == [0x01#8, 0x02#8, 0x03#8, 0x00#8] && t.i == 0x400#16) = true := by decide
/-- T83: no partial store. -/
theorem test_storeRange_fault : faults ((regs2 0 0x11#8 1 0x22#8).setI 0xFFF#16) 0xF155 .memoryOutOfBounds 0xF155#16 =
    true := by decide
/-- T86. -/
theorem test_loadRange : after (((State.reset.setMem (Memory.writeBytes [] 0x400 [0xAA#8, 0xBB#8, 0xCC#8, 0xDD#8])).setV 3
    0x09#8).setI 0x400#16) 0xF265 (fun t => t.getV 0 == 0xAA#8 && t.getV 1 == 0xBB#8 && t.getV 2 == 0xCC#8 &&
    t.getV 3 == 0x09#8 && t.i == 0x400#16) = true := by decide
/-- T88. -/
theorem test_loadRange_fault : faults (State.reset.setI 0xFFF#16) 0xF165 .memoryOutOfBounds 0xF165#16 = true := by decide

/-- Writing what an unlisted address reads as removes the cell (log entry 11). -/
theorem test_memory_canonical : Memory.write (Memory.write [] 0x001 0x33#8) 0x001 0x90#8 = [] := by decide
/-- Writes in any order give the same list. -/
theorem test_memory_sorted : Memory.write (Memory.write [] 0x301 0x02#8) 0x300 0x01#8 =
    [(0x300, 0x01#8), (0x301, 0x02#8)] := by decide

/-! ## Display (section 2.4) -/

/-- A start state of the draw vectors: the sprite bytes at 0x300, and the coordinates in V0 and V1. -/
def drawState (bs : List Byte) (a b : Byte) : State :=
  ((regs2 0 a 1 b).setI 0x300#16).setMem (Memory.writeBytes [] 0x300 bs)

/-- T100. -/
theorem test_cls : after ((State.reset.setFb (FrameBuffer.toggle State.reset.fb 63 31)).setV 15 0x55#8) 0x00E0
    (fun t => !FrameBuffer.cell t.fb 63 31 && t.getV 15 == 0x55#8) = true := by decide
/-- T102: wrap-around both ways. -/
theorem test_drw_wraps : after (drawState [0xFF#8, 0x81#8] 60 31) 0xD012
    (fun t => [(3, 0), (60, 0), (0, 31), (1, 31), (2, 31), (3, 31), (60, 31), (61, 31), (62, 31), (63, 31)].all
        (fun c => FrameBuffer.cell t.fb c.1 c.2) &&
      [(61, 0), (63, 0), (0, 0), (2, 0), (59, 31), (4, 31), (0, 1), (60, 30)].all
        (fun c => !FrameBuffer.cell t.fb c.1 c.2) && t.getV 15 == 0x01#8) = true := by decide
/-- T106: the fault; T105: no row, no check; T108: bit 7 is the leftmost pixel, and a collision. -/
theorem test_drw_bounds_and_bits :
    faults (State.reset.setI 0xFFF#16) 0xD012 .memoryOutOfBounds 0xD012#16 = true ∧
    after (State.reset.setI 0xFFFF#16) 0xD010 (fun t => !t.halt && t.getV 15 == 0x01#8) = true ∧
    after ((drawState [0xC0#8] 0 0).setFb (FrameBuffer.toggle State.reset.fb 1 0)) 0xD011
      (fun t => FrameBuffer.cell t.fb 0 0 && !FrameBuffer.cell t.fb 1 0 && !FrameBuffer.cell t.fb 7 0) = true ∧
    (drawCells (FrameBuffer.toggle State.reset.fb 1 0) [(0, 0), (1, 0)]).2 = true := by decide

/-! ## Keypad and timers (section 2.5) -/

/-- T120, T121. -/
theorem test_skp : after ((State.reset.setV 2 0x05#8).setKey 5 true) 0xE29E (fun t => t.pc == 0x204#16) = true ∧
    after (State.reset.setV 2 0x05#8) 0xE29E (fun t => t.pc == 0x202#16) = true := by decide
/-- T124. -/
theorem test_skp_fault : faults (State.reset.setV 2 0x10#8) 0xE29E .keyIndexOutOfRange 0xE29E#16 = true := by decide
/-- T122, T123. -/
theorem test_sknp : after (State.reset.setV 2 0x05#8) 0xE2AE (fun t => t.pc == 0x204#16) = true ∧
    after ((State.reset.setV 2 0x05#8).setKey 5 true) 0xE2AE (fun t => t.pc == 0x202#16) = true := by decide
/-- T126. -/
theorem test_ldKey_waits : step (State.reset.withFetchWord 16 0xF10A) = .next (State.reset.withFetchWord 16 0xF10A) := by
  rfl
/-- T127. -/
theorem test_ldKey_lowest : after ((State.reset.setKey 7 true).setKey 2 true) 0xF10A
    (fun t => t.getV 1 == 0x02#8 && t.pc == 0x202#16) = true := by decide
/-- T128. -/
theorem test_ldFromDT : after (State.reset.setDT 0x3C#8) 0xF307 (fun t => t.getV 3 == 0x3C#8) = true := by decide
/-- T129. -/
theorem test_ldToDT : after (State.reset.setV 3 0x3C#8) 0xF315 (fun t => t.dt == 0x3C#8) = true := by decide
/-- T130. -/
theorem test_ldToST : after (State.reset.setV 0 0x02#8) 0xF018 (fun t => t.st == 0x02#8) = true := by decide

/-! ## Host commands (sections 2.5 and 2.6) -/

/-- T134, T131: the cue is on exactly the TICK that finds `ST = 1`. -/
theorem test_tick : command .tick ((State.reset.setDT 0x04#8).setST 0x01#8) =
    .next (State.reset.setDT 0x03#8, .cue true) ∧
    command .tick (State.reset.setDT 0x01#8) = .next (State.reset, .cue false) := ⟨rfl, rfl⟩
/-- T136, T137. -/
theorem test_setKey : (State.reset.setKey 16 true) = State.reset ∧ (State.reset.setKey 15 true).key 15 = true := by decide
/-- T159: the first two bytes of the image are the first word fetched. -/
theorem test_load : (load [0x12#8, 0x34#8] State.reset).1.fetch? = some 0x1234#16 := by decide
/-- T158, E4: 3585 bytes are rejected. -/
theorem test_load_too_large : (load (List.replicate 3585 0x00#8) State.reset) = (State.reset, .programTooLarge) := by
  have h : (List.replicate 3585 0x00#8).length > Config.progMax := by rw [List.length_replicate]; decide
  simp only [load, h, if_true]
/-- T155: a halted STEP answers the record again. -/
theorem test_halted_step : command .step (State.reset.latch .unrecognizedOpcode 0x8128#16) =
    .next (State.reset.latch .unrecognizedOpcode 0x8128#16, .fault ⟨.unrecognizedOpcode, 0x0200#16, 0x8128#16⟩) := rfl
/-- T157: RESET clears the latch and the program. -/
theorem test_reset : command .reset ((State.reset.latch .stackUnderflow 0x00EE#16).setMem [(0x200, 0x12#8)]) =
    .next (State.reset, .none) := rfl
/-- T150: the fault of an unrecognized word. -/
theorem test_unrecognized : faults State.reset 0x8128 .unrecognizedOpcode 0x8128#16 = true := by decide
/-- T161. -/
theorem test_display_reset : State.reset.fb.cells = List.replicate 2048 false := by decide +kernel
/-- The codes of R190. -/
theorem test_codes : [FaultCause.none, .unrecognizedOpcode, .memoryOutOfBounds, .stackOverflow, .stackUnderflow,
    .keyIndexOutOfRange].map FaultCause.code = [0, 1, 2, 3, 4, 6] ∧ Response.programTooLarge.code = 5 := by decide

/-! ## Witnesses: for each statement with hypotheses, a state and operands that meet them -/

/-- A running machine at 0x200 with one word there. -/
def at200 (w : Nat) : State := State.reset.withFetchWord 16 w

theorem witness_EncodeOfDecode : decode 0xD015#16 = .ok (.drw 0 1 0x5#4) := by decide

theorem witness_DecodeSelectsTheRow : opcodeTable[33].selects 0xF155#16 = true ∧
    (∀ r ∈ opcodeTable, r.selects 0xF156#16 = false) := by decide

theorem witness_UnrecognizedWordsByNibble : opD1 0x00EF#16 = 0x0#4 ∧ opD1 0x5FF1#16 = 0x5#4 ∧ opD1 0x900F#16 = 0x9#4 ∧
    opD1 0x8FF8#16 = 0x8#4 ∧ opD1 0xE09F#16 = 0xE#4 ∧ opD1 0xFFFF#16 = 0xF#4 ∧
    opD1 0xDFFF#16 ∈ [0x1#4, 0x2#4, 0x3#4, 0x4#4, 0x6#4, 0x7#4, 0xA#4, 0xB#4, 0xC#4, 0xD#4] := by decide

theorem witness_StepRunsTheDecodedInstruction : (at200 0x8124).Running ∧ (at200 0x8124).pc.toNat ≤ 0xFFE ∧
    decode ((at200 0x8124).mem.read (at200 0x8124).pc.toNat ++ (at200 0x8124).mem.read ((at200 0x8124).pc.toNat + 1)) =
      .ok (.addReg 1 2) := ⟨rfl, by decide, by decide⟩

theorem witness_FetchIsBigEndian : (State.reset.setPc 0xFFE#16).pc.toNat ≤ 0xFFE := by decide

theorem witness_FetchOutsideMemoryFaults : (State.reset.setPc 0xFFF#16).Running ∧
    0xFFE < (State.reset.setPc 0xFFF#16).pc.toNat := ⟨rfl, by decide⟩

theorem witness_UnrecognizedOpcodeFaults : (at200 0x8128).Running ∧ (at200 0x8128).pc.toNat ≤ 0xFFE ∧
    0x8128#16 = (at200 0x8128).mem.read (at200 0x8128).pc.toNat ++ (at200 0x8128).mem.read ((at200 0x8128).pc.toNat + 1) ∧
    wellFormedWord 0x8128#16 = false := ⟨rfl, by decide, by decide, by decide⟩

theorem witness_HaltedStepRepeatsTheRecord : (State.reset.latch .stackUnderflow 0x00EE#16).halt = true := rfl

/-- Both clauses on the record: a fetched word, and a fetch that faults. -/
theorem witness_FaultsArePrecise :
    ((at200 0x00EE).Running ∧ step (at200 0x00EE) = .next ((at200 0x00EE).latch .stackUnderflow 0x00EE#16) ∧
      ((at200 0x00EE).latch .stackUnderflow 0x00EE#16).halt = true ∧ (at200 0x00EE).pc.toNat ≤ 0xFFE) ∧
    ((State.reset.setPc 0x1000#16).Running ∧
      step (State.reset.setPc 0x1000#16) = .next ((State.reset.setPc 0x1000#16).latch .memoryOutOfBounds 0x0000#16) ∧
      ((State.reset.setPc 0x1000#16).latch .memoryOutOfBounds 0x0000#16).halt = true ∧
      0xFFE < (State.reset.setPc 0x1000#16).pc.toNat) :=
  ⟨⟨rfl, rfl, rfl, by decide⟩, ⟨rfl, rfl, rfl, by decide⟩⟩

theorem witness_OnlyResetClearsTheLatch : (State.reset.latch .stackUnderflow 0x00EE#16).halt = true ∧
    Command.tick ≠ .reset ∧ command .tick (State.reset.latch .stackUnderflow 0x00EE#16) =
      .next (State.reset.latch .stackUnderflow 0x00EE#16, .cue false) := ⟨rfl, by decide, rfl⟩

theorem witness_TwentySevenInstructionsNeverFault : canFault (.ldKey 3) = false := rfl

/-- The deepest call that fits, and the one that does not. -/
theorem witness_CallPushesReturnAddress : ({ State.reset with sp := 15 } : State).sp.val = (15 : Fin 16).val ∧
    ({ State.reset with sp := 16 } : State).sp.val = 16 := by decide

theorem witness_ReturnPopsIntoPc : ({ State.reset with sp := 16 } : State).sp.val = (15 : Fin 16).val + 1 ∧
    State.reset.sp.val = 0 := by decide

theorem witness_CallThenReturnResumes : ({ State.reset with sp := 15 } : State).sp.val < 16 := by decide

theorem witness_DecimalDigitsAreStored : (State.reset.setI 0xFFD#16).effAddr 2 ≤ 0xFFF ∧
    0xFFF < (State.reset.setI 0xFFE#16).effAddr 2 := by decide

theorem witness_RegisterRangeIsStored : (State.reset.setI 0xFF0#16).effAddr (15 : Reg).val ≤ 0xFFF ∧
    0xFFF < (State.reset.setI 0xFF1#16).effAddr (15 : Reg).val := by decide

theorem witness_RegisterRangeIsLoaded : (State.reset.setI 0xFFF#16).effAddr (0 : Reg).val ≤ 0xFFF ∧
    0xFFF < (State.reset.setI 0xFFFF#16).effAddr (1 : Reg).val := by decide

theorem witness_StoreThenLoadRestores : (State.reset.setI 0xFF0#16).effAddr (15 : Reg).val ≤ 0xFFF := by decide

theorem witness_StoredBytesAreFetched : (State.reset.setI 0xFFE#16).effAddr (1 : Reg).val ≤ 0xFFF ∧
    (1 : Reg).val = (0 : Reg).val + 1 ∧ (1 : Reg) ≤ 1 ∧
    (0xFFE#16).toNat = (State.reset.setI 0xFFE#16).effAddr (0 : Reg).val := by decide

theorem witness_CanonicalMemoriesAreUnique : Memory.wf (Memory.write [] 0xFFF 0x11#8) = true ∧
    Memory.wf [(0xFFF, 0x11#8)] = true ∧
    (∀ a : Nat, Memory.read (Memory.write [] 0xFFF 0x11#8) a = Memory.read [(0xFFF, 0x11#8)] a) :=
  ⟨by decide, by decide, fun _ => rfl⟩

/-- One covered cell that is lit, one draw without any, and no rows at all. -/
theorem witness_DrawInvertsCoveredCells :
    (drawState [0xFF#8] 60 0).effAddr ((0x1#4).toNat - 1) ≤ 0xFFF ∧
    SpriteCovers (drawState [0xFF#8] 60 0) 0 1 0x1#4 3 0 ∧
    ¬SpriteCovers (drawState [0xFF#8] 60 0) 0 1 0x0#4 3 0 ∧
    (∀ px py, SpriteCovers (drawState [0xFF#8] 60 0) 0 1 0x1#4 px py →
      FrameBuffer.cell (drawState [0xFF#8] 60 0).fb px py = false) ∧
    (SpriteCovers ((drawState [0xFF#8] 60 0).setFb (FrameBuffer.toggle FrameBuffer.clear 3 0)) 0 1 0x1#4 3 0 ∧
      FrameBuffer.cell ((drawState [0xFF#8] 60 0).setFb (FrameBuffer.toggle FrameBuffer.clear 3 0)).fb 3 0 = true) :=
  ⟨by decide, ⟨0, 7, by decide, by decide, by decide, by decide, by decide⟩,
    fun ⟨_, _, h, _⟩ => absurd h (Nat.not_lt_zero _), fun px py _ => FrameBuffer.cell_clear px py,
    ⟨0, 7, by decide, by decide, by decide, by decide, by decide⟩, by decide⟩

theorem witness_DrawOutsideMemoryFaults : 0x1#4 ≠ 0x0#4 ∧
    0xFFF < (State.reset.setI 0x1000#16).effAddr ((0x1#4).toNat - 1) := by decide

theorem witness_DrawTwiceRestoresDisplay : (0 : Reg) ≠ regVF ∧ (1 : Reg) ≠ regVF ∧
    (State.reset.setI 0xFF1#16).effAddr ((0xF#4).toNat - 1) ≤ 0xFFF := by decide

theorem witness_FlagIsOneAfterEveryDraw : (State.reset.setI 0xFFF#16).effAddr ((0x1#4).toNat - 1) ≤ 0xFFF := by decide

theorem witness_SkipsOnKey : ((State.reset.setV 2 0x0F#8).getV 2).toNat = (15 : Fin 16).val ∧
    15 < ((State.reset.setV 2 0x10#8).getV 2).toNat := by decide

theorem witness_KeyWaitPolls : (∀ k : Fin 16, State.reset.keys[k.val] = false) ∧
    (State.reset.setKey 15 true).keys[(15 : Fin 16).val] = true ∧
    (∀ j : Fin 16, j < 15 → (State.reset.setKey 15 true).keys[j.val] = false) := by decide

/-- The largest image that fits, and the smallest that does not (E4). -/
theorem witness_LoadCopiesTheImage : (List.replicate 3584 0x00#8).length ≤ 3584 ∧
    3584 < (List.replicate 3585 0x00#8).length := by simp only [List.length_replicate]; decide

theorem witness_BootLeavesTheImage : 1 ≤ (List.replicate 3584 0x00#8).length ∧
    (List.replicate 3584 0x00#8).length ≤ 3584 := by simp only [List.length_replicate]; decide

/-- The state after reset meets the invariant, and so does a halted state (R18). -/
theorem witness_StepKeepsInvariant : State.reset.Inv ∧ step State.reset = .next (State.reset.setPc 0x202#16) := by
  refine ⟨⟨by decide, ?_, ?_, fun _ => rfl, fun h => absurd h (by decide)⟩, rfl⟩
  · unfold State.PcBounded; decide
  · unfold State.StackBounded; decide

theorem witness_EveryScheduleKeepsInvariant : State.reset.Inv ∧
    runCommands [.tick, .step] State.reset = .next (State.reset.setPc 0x202#16, [.cue false, .ok]) :=
  ⟨witness_StepKeepsInvariant.1, rfl⟩

theorem witness_OnlyNamedInstructionsChangeFlag : exec (.ldImm 15 0x07#8) State.reset =
    .next (State.reset.advance.setV 15 0x07#8) ∧
    (State.reset.advance.setV 15 0x07#8).getV regVF ≠ State.reset.getV regVF := ⟨rfl, by decide⟩

/-- Each clause of the statement on writers, by an instruction that writes the item. -/
theorem witness_StateHasItsOwnWriters :
    (exec (.ldI 0x300#12) State.reset = .next (State.reset.advance.setI 0x300#16) ∧
      (State.reset.advance.setI 0x300#16).i ≠ State.reset.i) ∧
    (exec (.ldToDT 0) (State.reset.setV 0 0x01#8) = .next ((State.reset.setV 0 0x01#8).advance.setDT 0x01#8) ∧
      ((State.reset.setV 0 0x01#8).advance.setDT 0x01#8).dt ≠ (State.reset.setV 0 0x01#8).dt) ∧
    (exec (.ldToST 0) (State.reset.setV 0 0x01#8) = .next ((State.reset.setV 0 0x01#8).advance.setST 0x01#8) ∧
      ((State.reset.setV 0 0x01#8).advance.setST 0x01#8).st ≠ (State.reset.setV 0 0x01#8).st) ∧
    (exec (.storeRange 0) ((State.reset.setV 0 0x01#8).setI 0x300#16) =
        .next (((State.reset.setV 0 0x01#8).setI 0x300#16).advance.setMem [(0x300, 0x01#8)]) ∧
      [(0x300, 0x01#8)] ≠ State.reset.mem) ∧
    (∃ t, exec (.call 0x300#12) State.reset = .next t ∧ t.sp ≠ State.reset.sp) ∧
    (∃ t, exec (.drw 0 1 0x1#4) (drawState [0xFF#8] 0 0) = .next t ∧ FrameBuffer.cell t.fb 0 0 = true) ∧
    (∃ t, exec (.rnd 0 0xFF#8) State.reset = .next t ∧ t.draws ≠ State.reset.draws) :=
  ⟨⟨rfl, by decide⟩, ⟨rfl, by decide⟩, ⟨rfl, by decide⟩, ⟨rfl, by decide⟩, ⟨_, rfl, by decide⟩, ⟨_, rfl, by decide⟩,
    ⟨_, rfl, by decide⟩⟩

theorem witness_SoundTimerIsNeverRead : exec .nop State.reset = .next State.reset.advance ∧
    (∀ x, Instr.nop ≠ .ldToST x) ∧ exec (.ldToST 3) State.reset = .next (State.reset.advance.setST 0x00#8) :=
  ⟨rfl, by decide, rfl⟩

/-- Two states with a different dead entry above `SP = 1`, at a `RET`. -/
theorem witness_DeadStackEntriesAreNeverRead :
    SameButDeadStack { at200 0x00EE with sp := 1 }
      { at200 0x00EE with sp := 1, stk := (at200 0x00EE).stk.set 1 0x0ABC#16 } ∧
    ∃ t, step { at200 0x00EE with sp := 1 } = .next t := by
  refine ⟨⟨rfl, fun k hk => ?_⟩, ⟨_, rfl⟩⟩
  obtain rfl : k = 0 := Fin.ext (by simpa using hk)
  decide

theorem witness_OnlyRandomTakesDraws : (∀ x nn, Instr.cls ≠ .rnd x nn) ∧
    exec .cls State.reset = .next (State.reset.advance.setFb FrameBuffer.clear) := ⟨by intros; simp, rfl⟩

end Sys2Proof.Tests
end

section
namespace Sys2Proof.Machine

/-- Settles O8: inside memory the fetch forms the word of the two bytes at `PC` (R40), and the laws of `wordOf` give
those bytes back as its high and its low byte. -/
theorem fetchIsBigEndian : Obligations.FetchIsBigEndian := by
  intro s hpc
  exact ⟨_, s.fetch?_of_le hpc, highByte_wordOf _ _, lowByte_wordOf _ _⟩

end Sys2Proof.Machine
end

section
/-!
The decoder against the opcode map (spec/30_encoding.md R63, R67): what the decoder can answer, the row it chooses, and
that every row of the map fixes the nibbles the decoder compares.
-/

namespace Sys2Proof

/-! ## What the decoder can answer: the refusal by name, or an instruction whose word is the word decoded -/

theorem encodeNNN_of_opD1 {op : Word} {d1 : Nibble} (hd : opD1 op = d1) : encodeNNN d1 (opNNN op) = op :=
  hd ▸ encodeNNN_fields op

theorem encodeXNN_of_opD1_opNN {op : Word} {d1 : Nibble} {nn : Byte} (hd : opD1 op = d1) (hnn : opNN op = nn) :
    encodeXNN d1 (opX op) nn = op :=
  hd ▸ hnn ▸ encodeXNN_fields op

theorem encodeXYN_of_opD1_opN {op : Word} {d1 d4 : Nibble} (hd : opD1 op = d1) (hn : opN op = d4) :
    encodeXYN d1 (opX op) (opY op) d4 = op :=
  hd ▸ hn ▸ encodeXYN_fields op

theorem decode0_cases (op : Word) :
    decode0 op = reject op ∨ ∃ i, decode0 op = .ok i ∧ encode i = op := by
  unfold decode0
  split_ifs with hnop hcls hret
  · exact .inr ⟨_, rfl, hnop.symm⟩
  · exact .inr ⟨_, rfl, hcls.symm⟩
  · exact .inr ⟨_, rfl, hret.symm⟩
  · exact .inl rfl

theorem decodeXY0_cases {op : Word} {d1 : Nibble} {i : Instr} (hd : opD1 op = d1)
    (hi : encode i = encodeXYN d1 (opX op) (opY op) 0x0#4) :
    decodeXY0 op i = reject op ∨ ∃ j, decodeXY0 op i = .ok j ∧ encode j = op := by
  unfold decodeXY0
  split_ifs with hn
  · exact .inr ⟨_, rfl, hi.trans (encodeXYN_of_opD1_opN hd hn)⟩
  · exact .inl rfl

theorem decode8_cases {op : Word} (hd : opD1 op = 0x8#4) :
    decode8 op = reject op ∨ ∃ i, decode8 op = .ok i ∧ encode i = op := by
  unfold decode8
  split
  case h_10 => exact .inl rfl
  all_goals next hn => exact .inr ⟨_, rfl, encodeXYN_of_opD1_opN hd hn⟩

theorem decodeE_cases {op : Word} (hd : opD1 op = 0xE#4) :
    decodeE Config.sknpLow op = reject op ∨ ∃ i, decodeE Config.sknpLow op = .ok i ∧ encode i = op := by
  unfold decodeE
  split_ifs with hskp hsknp
  · exact .inr ⟨_, rfl, encodeXNN_of_opD1_opNN hd hskp⟩
  · exact .inr ⟨_, rfl, encodeXNN_of_opD1_opNN hd hsknp⟩
  · exact .inl rfl

theorem decodeF_cases {op : Word} (hd : opD1 op = 0xF#4) :
    decodeF op = reject op ∨ ∃ i, decodeF op = .ok i ∧ encode i = op := by
  unfold decodeF
  split
  case h_10 => exact .inl rfl
  all_goals next hnn => exact .inr ⟨_, rfl, encodeXNN_of_opD1_opNN hd hnn⟩

/-- The last arm of `decodeWith` is the nibble its other arms leave. -/
theorem nibble_eq_F : ∀ d : Nibble, d ∉ [0x0#4, 0x1#4, 0x2#4, 0x3#4, 0x4#4, 0x5#4, 0x6#4, 0x7#4, 0x8#4, 0x9#4,
    0xA#4, 0xB#4, 0xC#4, 0xD#4, 0xE#4] → d = 0xF#4 := by
  decide

/-- A word is refused by name (R67), or its instruction is encoded as the same word. -/
theorem decode_cases (op : Word) : decode op = reject op ∨ ∃ i, decode op = .ok i ∧ encode i = op := by
  unfold decode decodeWith
  split
  case h_1 => exact decode0_cases op
  case h_6 hd => exact decodeXY0_cases hd rfl
  case h_9 hd => exact decode8_cases hd
  case h_10 hd => exact decodeXY0_cases hd rfl
  case h_14 hd => exact .inr ⟨_, rfl, encodeXYN_of_opD1_opN hd rfl⟩
  case h_15 hd => exact decodeE_cases hd
  case h_16 => exact decodeF_cases (nibble_eq_F _ (by simp_all))
  case h_2 | h_3 | h_11 | h_12 => exact .inr ⟨_, rfl, encodeNNN_of_opD1 ‹_›⟩
  case h_4 | h_5 | h_7 | h_8 | h_13 => exact .inr ⟨_, rfl, encodeXNN_of_opD1_opNN ‹_› rfl⟩

open Laws.EncodingSelectsRow in
/-- The family of per-instruction laws as one fact about every instruction. -/
theorem encode_selects_row (i : Instr) : Statement i :=
  match i with
  | .nop => nop | .cls => cls | .ret => ret | .jp _ => jp _ | .call _ => call _
  | .seImm .. => seImm .. | .sneImm .. => sneImm .. | .seReg .. => seReg .. | .sneReg .. => sneReg ..
  | .ldImm .. => ldImm .. | .addImm .. => addImm .. | .ldReg .. => ldReg .. | .orReg .. => orReg ..
  | .andReg .. => andReg .. | .xorReg .. => xorReg .. | .addReg .. => addReg .. | .subReg .. => subReg ..
  | .shr .. => shr .. | .subnReg .. => subnReg .. | .shl .. => shl .. | .ldI _ => ldI _ | .jpV0 _ => jpV0 _
  | .rnd .. => rnd .. | .drw .. => drw .. | .skp _ => skp _ | .sknp _ => sknp _ | .ldFromDT _ => ldFromDT _
  | .ldKey _ => ldKey _ | .ldToDT _ => ldToDT _ | .ldToST _ => ldToST _ | .addI _ => addI _ | .ldF _ => ldF _
  | .ldB _ => ldB _ | .storeRange _ => storeRange _ | .loadRange _ => loadRange _

/-! ## The row the decoder chooses -/

/-- The number of the row of the instruction a word decodes to, none where the decoder refuses. -/
def decodedRow (op : Word) : Option Nat := (decode op).toOption.map Instr.row

theorem decodedRow_eq_some_iff {op : Word} {k : Nat} :
    decodedRow op = some k ↔ ∃ i, decode op = .ok i ∧ i.row = k := by
  unfold decodedRow
  cases decode op <;> simp [Except.toOption]

/-- The operands do not choose the row: it is settled by the nibbles the decoder compares, which are the highest and, as
that one says, the whole word, `d4` or the low byte. -/
theorem decodedRow_congr {op p : Word} (hd : opD1 op = opD1 p) (h0 : opD1 p = 0x0#4 → op = p)
    (hn : opD1 p ∈ [0x5#4, 0x8#4, 0x9#4] → opN op = opN p)
    (hnn : opD1 p ∈ [0xE#4, 0xF#4] → opNN op = opNN p) : decodedRow op = decodedRow p := by
  unfold decodedRow decode decodeWith
  rw [hd]
  split
  case h_1 h => rw [h0 h]
  case h_6 h | h_10 h =>
    unfold decodeXY0
    rw [hn (by simp [h])]
    split <;> rfl
  case h_9 h =>
    unfold decode8
    rw [hn (by simp [h])]
    split <;> rfl
  case h_15 h =>
    unfold decodeE
    rw [hnn (by simp [h])]
    split_ifs <;> rfl
  case h_16 =>
    have h : opD1 p = 0xF#4 := nibble_eq_F _ (by simp_all)
    unfold decodeF
    rw [hnn (by simp [h])]
    split <;> rfl
  all_goals rfl

/-! ## The rows of the opcode map (R63) -/

/-- A word agrees with the row it selects in every slice the row's mask covers. -/
theorem extractLsb'_of_selects {r : OpcodeRow} {op : Word} {start len : Nat} (h : r.selects op = true)
    (hm : r.mask.extractLsb' start len = BitVec.allOnes len) :
    op.extractLsb' start len = r.pattern.extractLsb' start len := by
  have hp : op &&& r.mask = r.pattern := eq_of_beq h
  rw [← hp, BitVec.extractLsb'_and, hm, BitVec.and_allOnes]

/-- A row fixes every nibble the decoder compares in a word with the row's highest nibble. -/
theorem mask_covers_compared_nibbles : ∀ r ∈ opcodeTable,
    opD1 r.mask = BitVec.allOnes 4 ∧
    (opD1 r.pattern = 0x0#4 → r.mask.extractLsb' 0 16 = BitVec.allOnes 16) ∧
    (opD1 r.pattern ∈ [0x5#4, 0x8#4, 0x9#4] → opN r.mask = BitVec.allOnes 4) ∧
    (opD1 r.pattern ∈ [0xE#4, 0xF#4] → opNN r.mask = BitVec.allOnes 8) := by
  decide

theorem decodedRow_pattern : ∀ r ∈ opcodeTable, decodedRow r.pattern = some r.number := by
  decide

theorem row_eq_of_number_eq : ∀ r ∈ opcodeTable, ∀ q ∈ opcodeTable, r.number = q.number → r = q := by
  decide

/-- The decoder answers any word of a row as it answers the row's own pattern. -/
theorem decodedRow_of_selects {r : OpcodeRow} {op : Word} (hr : r ∈ opcodeTable) (h : r.selects op = true) :
    decodedRow op = some r.number := by
  obtain ⟨hd, h0, hn, hnn⟩ := mask_covers_compared_nibbles r hr
  have hcongr : decodedRow op = decodedRow r.pattern :=
    decodedRow_congr (extractLsb'_of_selects h hd)
      (fun hz => by simpa using extractLsb'_of_selects h (h0 hz))
      (fun hz => extractLsb'_of_selects h (hn hz))
      (fun hz => extractLsb'_of_selects h (hnn hz))
  exact hcongr.trans (decodedRow_pattern r hr)

/-- Settles O4: a word that selects a row decodes into that row, so two rows it selects have one number and are one; a
word the decoder accepts is the word of its instruction and so selects a row, and every other word is refused. -/
theorem decodeSelectsTheRow : Obligations.DecodeSelectsTheRow := by
  intro op
  refine ⟨fun r hr h => decodedRow_eq_some_iff.mp (decodedRow_of_selects hr h), fun hnone => ?_,
    fun r hr q hq h h' => ?_⟩
  · obtain hrej | ⟨i, -, rfl⟩ := decode_cases op
    · exact hrej
    · obtain ⟨r, hr, -, hsel⟩ := encode_selects_row i
      exact absurd hsel (by simp [hnone r hr])
  · have hnum : some r.number = some q.number :=
      (decodedRow_of_selects hr h).symm.trans (decodedRow_of_selects hq h')
    exact row_eq_of_number_eq r hr q hq (Option.some.inj hnum)

end Sys2Proof
end

section
/-!
Control flow without the stack (spec/40_control.md R80, R82, R84 to R87, R89): the words of the jump and of the four
skips decode into them, and a skip test sets `PC` alone.
-/

namespace Sys2Proof

/-! ## The words of the jump and the skips (spec/30_encoding.md R63 rows 4, 6 to 8 and 20) -/

theorem decode_encodeNNN_jp (nnn : Addr) : decode (encodeNNN 0x1#4 nnn) = .ok (.jp nnn) := by
  simp [decode, decodeWith]

theorem decode_encodeXNN_seImm (x : Reg) (nn : Byte) : decode (encodeXNN 0x3#4 x nn) = .ok (.seImm x nn) := by
  simp [decode, decodeWith]

theorem decode_encodeXNN_sneImm (x : Reg) (nn : Byte) : decode (encodeXNN 0x4#4 x nn) = .ok (.sneImm x nn) := by
  simp [decode, decodeWith]

theorem decode_encodeXYN_seReg (x y : Reg) : decode (encodeXYN 0x5#4 x y 0x0#4) = .ok (.seReg x y) := by
  simp [decode, decodeWith, decodeXY0]

theorem decode_encodeXYN_sneReg (x y : Reg) : decode (encodeXYN 0x9#4 x y 0x0#4) = .ok (.sneReg x y) := by
  simp [decode, decodeWith, decodeXY0]

/-- A word that decodes at all is the word of its instruction, and `NOP` has one word. -/
theorem decode_eq_nop_iff (op : Word) : decode op = .ok .nop ↔ op = 0x0000#16 := by
  constructor
  · intro h
    obtain hrej | ⟨i, hi, henc⟩ := decode_cases op
    · cases hrej.symm.trans h
    · cases hi.symm.trans h
      exact henc.symm
  · rintro rfl
    rfl

namespace Machine

/-! ## The skip tests on two bytes (R89) -/

theorem State.skipIf_advance_beq (s : State) (a b : Byte) :
    s.advance.skipIf (a == b) = { s with pc := if a = b then s.pc + 4 else s.pc + 2 } := by
  simp only [State.skipIf_advance, beq_iff_eq]

theorem State.skipIf_advance_bne (s : State) (a b : Byte) :
    s.advance.skipIf (a != b) = { s with pc := if a = b then s.pc + 2 else s.pc + 4 } := by
  simp only [State.skipIf_advance, bne_iff_ne, ite_not]

/-- The address operand loses nothing when it is extended to a word. -/
theorem toNat_zextAddr (nnn : Addr) : (zextAddr nnn).toNat = nnn.toNat :=
  BitVec.toNat_setWidth_of_le (by decide)

/-! ## The statements -/

/-- Settles O22: both words decode by their highest nibble, and each meaning is one skip test of `V[x]` against `nn`. -/
theorem skipsOnImmediate : Obligations.SkipsOnImmediate := by
  intro x nn
  refine ⟨decode_encodeXNN_seImm x nn, decode_encodeXNN_sneImm x nn, fun s => ⟨?_, ?_⟩⟩
  · exact congrArg Host.Outcome.next (s.skipIf_advance_beq (s.getV x) nn)
  · exact congrArg Host.Outcome.next (s.skipIf_advance_bne (s.getV x) nn)

/-- Settles O23: both words decode by their highest nibble and `d4 = 0`, and each meaning is one skip test of `V[x]`
against `V[y]`, which needs no case for `x = y`. -/
theorem skipsOnRegisters : Obligations.SkipsOnRegisters := by
  intro x y
  refine ⟨decode_encodeXYN_seReg x y, decode_encodeXYN_sneReg x y, fun s => ⟨?_, ?_⟩⟩
  · exact congrArg Host.Outcome.next (s.skipIf_advance_beq (s.getV x) (s.getV y))
  · exact congrArg Host.Outcome.next (s.skipIf_advance_bne (s.getV x) (s.getV y))

/-- Settles O16: `NOP` has one word, 0x0001 is refused by evaluation, and the meaning is the fetch's advance. -/
theorem nopOnlyAdvances : Obligations.NopOnlyAdvances :=
  ⟨decode_eq_nop_iff, rfl, fun _ => rfl⟩

/-- Settles O17: the word decodes by its highest nibble, and the jump's second write of `PC` replaces the advance. -/
theorem jumpSetsPc : Obligations.JumpSetsPc := by
  intro nnn
  exact ⟨decode_encodeNNN_jp nnn, fun s => ⟨s.advance.setPc (zextAddr nnn), rfl, toNat_zextAddr nnn, rfl⟩⟩

end Machine

end Sys2Proof
end

section
/-!
The ALU (spec/41_alu.md R100 to R110): every instruction's word decodes into it, the two forms an ALU instruction ends
in write what the claims say and nothing else, and the byte operations are the arithmetic of natural numbers modulo 256.
-/

namespace Sys2Proof

/-- The decoder undoes the encoder. The cases are grouped by the part of the word the decoder compares: the whole word,
the highest nibble alone, and with it `d4` or the low byte (spec/30_encoding.md R61, R63). -/
theorem decode_encode (i : Instr) : decode (encode i) = .ok i := by
  cases i with
  | nop | cls | ret => rfl
  | jp | call | ldI | jpV0 | seImm | sneImm | ldImm | addImm | rnd | drw =>
    simp [encode, encodeWith, decode, decodeWith]
  | seReg | sneReg => simp [encode, encodeWith, decode, decodeWith, decodeXY0]
  | ldReg | orReg | andReg | xorReg | addReg | subReg | shr | subnReg | shl =>
    simp [encode, encodeWith, decode, decodeWith, decode8]
  | skp | sknp => simp [encode, encodeWith, decode, decodeWith, decodeE, Config.sknpLow]
  | ldFromDT | ldKey | ldToDT | ldToST | addI | ldF | ldB | storeRange | loadRange =>
    simp [encode, encodeWith, decode, decodeWith, decodeF]

namespace Machine

/-! ## What writing registers leaves unchanged -/

theorem keepsAllButRegs_advance (s : State) : KeepsAllButRegs s s.advance :=
  ⟨rfl, ⟨rfl, rfl⟩, ⟨rfl, rfl⟩, rfl, rfl, fun _ => rfl, ⟨rfl, rfl⟩, rfl⟩

/-- Every other item of `t.setV x b` is the item of `t`. -/
theorem KeepsAllButRegs.setV {s t : State} (h : KeepsAllButRegs s t) (x : Reg) (b : Byte) :
    KeepsAllButRegs s (t.setV x b) :=
  h

theorem keepsRegsBut_advance_setV (s : State) (x : Reg) (b : Byte) : KeepsRegsBut [x] s (s.advance.setV x b) := by
  intro k hk
  have hkx : k ≠ x := by simpa using hk
  simp [hkx]

theorem KeepsRegsBut.setFlag {s t : State} {x : Reg} (h : KeepsRegsBut [x] s t) (flag : Byte) :
    KeepsRegsBut [x, regVF] s (t.setFlag flag) := by
  intro k hk
  obtain ⟨hkx, hkF⟩ : k ≠ x ∧ k ≠ regVF := by simpa using hk
  rw [State.getV_setFlag_ne t flag hkF]
  exact h k (by simpa using hkx)

/-! ## The two forms an ALU instruction ends in -/

theorem writeResult_wroteReg (x : Reg) (r : Byte) (s : State) :
    ∃ t, writeResult x r s = .next t ∧ WroteReg x r s t :=
  ⟨s.advance.setV x r, rfl, rfl, s.advance.getV_setV_same x r, keepsRegsBut_advance_setV s x r,
    (keepsAllButRegs_advance s).setV x r⟩

/-- VF is written after `V[x]`, so the result survives exactly where `x` is another register (R12). -/
theorem writeResultFlag_wroteRegThenFlag (x : Reg) (r flag : Byte) (s : State) :
    ∃ t, writeResultFlag x r flag s = .next t ∧ WroteRegThenFlag x r flag s t := by
  refine ⟨(s.advance.setV x r).setFlag flag, rfl, rfl, State.getV_setFlag_same _ flag, fun hx => ?_,
    (keepsRegsBut_advance_setV s x r).setFlag flag, ((keepsAllButRegs_advance s).setV x r).setV regVF flag⟩
  rw [State.getV_setFlag_ne _ flag hx, State.getV_setV_same]

/-! ## The byte operations as arithmetic modulo 256 (R111) -/

theorem byte_add_eq_ofNat (a b : Byte) : a + b = BitVec.ofNat 8 ((a.toNat + b.toNat) % 256) := by
  apply BitVec.eq_of_toNat_eq
  simp

/-- The 256 of the minuend stands for the borrow, which natural numbers do not have. -/
theorem byte_sub_eq_ofNat (a b : Byte) : a - b = BitVec.ofNat 8 ((256 + a.toNat - b.toNat) % 256) := by
  apply BitVec.eq_of_toNat_eq
  have hb := b.isLt
  simp only [BitVec.toNat_sub, BitVec.toNat_ofNat]
  omega

theorem byte_ushiftRight_one_eq_ofNat (a : Byte) : a >>> 1 = BitVec.ofNat 8 (a.toNat / 2) := by
  apply BitVec.eq_of_toNat_eq
  have ha := a.isLt
  simp only [BitVec.toNat_ushiftRight, Nat.shiftRight_one, BitVec.toNat_ofNat]
  omega

theorem byte_shiftLeft_one_eq_ofNat (a : Byte) : a <<< 1 = BitVec.ofNat 8 (a.toNat * 2 % 256) := by
  apply BitVec.eq_of_toNat_eq
  simp [Nat.shiftLeft_eq]

theorem carry_eq_ite (a b : Byte) : carry a b = if 256 ≤ a.toNat + b.toNat then 0x01#8 else 0x00#8 := by
  simp [carry, flagByte]

theorem notBorrow_eq_ite (a b : Byte) : notBorrow a b = if a.toNat < b.toNat then 0x00#8 else 0x01#8 := by
  by_cases h : a.toNat < b.toNat <;> simp [notBorrow, flagByte, h]

/-! ## The statements -/

/-- Settles O25: each meaning writes its result to `V[x]` and ends there, with no flag. -/
theorem copyAndLogic : Obligations.CopyAndLogic := by
  intro x y
  refine ⟨decode_encode (.ldReg x y), decode_encode (.orReg x y), decode_encode (.andReg x y),
    decode_encode (.xorReg x y), fun s => ⟨?_, ?_, ?_, ?_⟩⟩
  all_goals exact writeResult_wroteReg x _ s

/-- Settles O26: the meaning writes the byte sum, which is the sum modulo 256, and then the carry. -/
theorem addWritesSumAndCarry : Obligations.AddWritesSumAndCarry := by
  intro x y
  refine ⟨decode_encode (.addReg x y), fun s => ?_⟩
  rw [← byte_add_eq_ofNat, ← carry_eq_ite]
  exact writeResultFlag_wroteRegThenFlag x _ _ s

/-- Settles O27: the two meanings write a byte difference and its borrow, with the operands exchanged. -/
theorem subtractionsWriteNotBorrow : Obligations.SubtractionsWriteNotBorrow := by
  intro x y
  refine ⟨decode_encode (.subReg x y), decode_encode (.subnReg x y), fun s => ⟨?_, ?_⟩⟩
  all_goals
    rw [← byte_sub_eq_ofNat, ← notBorrow_eq_ite]
    exact writeResultFlag_wroteRegThenFlag x _ _ s

/-- Settles O28: the meanings take `V[x]` alone, and the flag is by definition the bit shifted out. -/
theorem shiftsMoveOneBit : Obligations.ShiftsMoveOneBit := by
  intro x y
  refine ⟨decode_encode (.shr x y), decode_encode (.shl x y), fun s => ⟨?_, ?_⟩⟩
  · rw [← byte_ushiftRight_one_eq_ofNat]
    exact writeResultFlag_wroteRegThenFlag x _ (lsbFlag (s.getV x)) s
  · rw [← byte_shiftLeft_one_eq_ofNat]
    exact writeResultFlag_wroteRegThenFlag x _ (msbFlag (s.getV x)) s

/-- Settles O24: both meanings end in a write of `V[x]` with no flag, and the byte sum is the sum modulo 256. -/
theorem immediateLoadAndAdd : Obligations.ImmediateLoadAndAdd := by
  intro x nn
  refine ⟨decode_encode (.ldImm x nn), decode_encode (.addImm x nn), fun s => ⟨?_, ?_⟩⟩
  · exact writeResult_wroteReg x nn s
  · rw [← byte_add_eq_ofNat]
    exact writeResult_wroteReg x _ s

end Machine

end Sys2Proof
end

section
/-!
The index register (spec/42_index_memory.md R120, R121): a meaning that ends in a write of `I` advances `PC` and changes
nothing else, and the sum of `I` and a byte is the sum of the natural numbers modulo 65536.
-/

namespace Sys2Proof.Machine

/-- A byte extended to a word keeps its value, and word addition is modulo 65536 (R121). -/
theorem toNat_add_zextByte (w : Word) (b : Byte) : (w + zextByte b).toNat = (w.toNat + b.toNat) % 65536 := by
  have hb : (zextByte b).toNat = b.toNat := BitVec.toNat_setWidth_of_le (by decide)
  rw [BitVec.toNat_add, hb]

theorem State.advance_setI (s : State) (w : Word) : s.advance.setI w = { s with i := w, pc := s.pc + 2 } := rfl

/-- Settles O31: both meanings end in one write of `I`, so the arithmetic of the value written is all there is to say. -/
theorem indexLoadAndAdd : Obligations.IndexLoadAndAdd := by
  refine ⟨fun nnn => ⟨decode_encode (.ldI nnn), fun s => ?_⟩, fun x => ⟨decode_encode (.addI x), fun s => ?_⟩⟩
  · exact ⟨s.advance.setI (zextAddr nnn), rfl, toNat_zextAddr nnn, s.advance_setI _⟩
  · exact ⟨s.advance.setI (s.i + zextByte (s.getV x)), rfl, toNat_add_zextByte s.i _, s.advance_setI _⟩

end Sys2Proof.Machine
end

section
/-!
Clearing the display (spec/43_display.md R140): the meaning of `CLS` advances `PC`, puts the framebuffer whose cells are
all false in place of the old one, and changes nothing else.
-/

namespace Sys2Proof.Machine

theorem exec_cls (s : State) : exec .cls s = .next (s.advance.setFb FrameBuffer.clear) := rfl

theorem State.advance_setFb (s : State) (f : FrameBuffer) : s.advance.setFb f = { s with fb := f, pc := s.pc + 2 } := rfl

/-- Settles O39: the next state is the advanced state with the clear framebuffer, so every cell it shows is false and
every item but `FB` and `PC` is the old one. -/
theorem clearMakesAllCellsFalse : Obligations.ClearMakesAllCellsFalse := by
  refine ⟨decode_encode .cls, fun s => ?_⟩
  exact ⟨s.advance.setFb FrameBuffer.clear, exec_cls s, FrameBuffer.cell_clear, s.advance_setFb FrameBuffer.clear⟩

end Sys2Proof.Machine
end

section
/-!
The key wait and the timer transfers (spec/44_keypad_timers.md R152 to R155): the key wait is decided by the lowest pressed
key, and with none its rewind undoes the fetch's advance; a transfer writes one register or one timer.
-/

namespace Sys2Proof.Machine

/-! ## The key wait -/

/-- The rewind by 2 undoes the advance of the fetch, modulo 65536 included. -/
theorem State.advance_rewind (s : State) : s.advance.setPc (s.advance.pc - 2) = s := by
  have hpc : s.advance.pc - 2 = s.pc := BitVec.add_sub_cancel s.pc 2
  rw [hpc]
  rfl

theorem exec_ldKey_of_none (x : Reg) {s : State} (h : s.lowestKey? = none) : exec (.ldKey x) s = .next s := by
  change execLdKey x s = .next s
  simp only [execLdKey, h, State.advance_rewind]

theorem exec_ldKey_of_some (x : Reg) {s : State} {k : Fin 16} (h : s.lowestKey? = some k) :
    exec (.ldKey x) s = writeResult x (BitVec.ofNat 8 k.val) s := by
  change execLdKey x s = writeResult x _ s
  simp only [execLdKey, h]

/-- Settles O45: the search for the lowest pressed key finds none, where the rewind gives the state back, or finds `k`,
which is written to `V[x]`. -/
theorem keyWaitPolls : Obligations.KeyWaitPolls := by
  intro x
  refine ⟨decode_encode (.ldKey x), fun s => ⟨fun hnone => ?_, fun k hk hlow => ?_⟩⟩
  · exact exec_ldKey_of_none x (s.lowestKey?_eq_none.mpr hnone)
  · rw [exec_ldKey_of_some x ((s.lowestKey?_eq_some k).mpr ⟨hk, hlow⟩)]
    exact writeResult_wroteReg x _ s

/-! ## The timer transfers -/

theorem State.advance_setDT (s : State) (b : Byte) : s.advance.setDT b = { s with dt := b, pc := s.pc + 2 } := rfl

theorem State.advance_setST (s : State) (b : Byte) : s.advance.setST b = { s with st := b, pc := s.pc + 2 } := rfl

/-- Settles O46: the read of `DT` ends in a write of `V[x]`, and the other two in one write of their timer. -/
theorem timerTransfers : Obligations.TimerTransfers := by
  intro x
  refine ⟨decode_encode (.ldFromDT x), decode_encode (.ldToDT x), decode_encode (.ldToST x), fun s => ⟨?_, ?_, ?_⟩⟩
  · exact writeResult_wroteReg x s.dt s
  · exact ⟨s.advance.setDT (s.getV x), rfl, State.setDT_dt _ _, s.advance_setDT _⟩
  · exact ⟨s.advance.setST (s.getV x), rfl, State.setST_st _ _, s.advance_setST _⟩

end Sys2Proof.Machine
end

section
/-!
Two host commands (spec/45_host_commands.md R177, R178): DISPLAY answers the framebuffer flattened row by row, and SETKEY
writes one flag of the keypad or, for an index above 15, nothing.
-/

namespace Sys2Proof.Machine

/-! ## DISPLAY -/

/-- The cells answered are the library's flattening of a vector of rows, which brings the index arithmetic with it. -/
theorem FrameBuffer.cells_eq_toList_flatten (fb : FrameBuffer) :
    FrameBuffer.cells fb = (Vector.flatten fb).toList := by
  rw [Vector.flatten, Vector.toList_mk, Array.toList_flatten, Array.toList_map, List.map_map]
  rfl

theorem FrameBuffer.length_cells (fb : FrameBuffer) : (FrameBuffer.cells fb).length = 2048 := by
  rw [FrameBuffer.cells_eq_toList_flatten, Vector.length_toList]

/-- Dividing the index `y*64 + x` by the row length gives back the row and the column (R178). -/
theorem FrameBuffer.getElem?_cells (fb : FrameBuffer) (px : Fin 64) (py : Fin 32) :
    (FrameBuffer.cells fb)[py.val * 64 + px.val]? = some (FrameBuffer.cell fb px py) := by
  have hlt : py.val * 64 + px.val < 32 * 64 := by omega
  have hrow : (py.val * 64 + px.val) / 64 = py.val := by omega
  have hcol : (py.val * 64 + px.val) % 64 = px.val := by omega
  rw [FrameBuffer.cells_eq_toList_flatten, Vector.getElem?_toList, Vector.getElem?_flatten, dif_pos hlt]
  simp only [hrow, hcol, FrameBuffer.cell]

/-- Settles O52: the answer is the list of cells of the state's framebuffer, and no branch of DISPLAY looks at `HALT`. -/
theorem displayReadsRowMajor : Obligations.DisplayReadsRowMajor := by
  intro s
  exact ⟨FrameBuffer.cells s.fb, rfl, FrameBuffer.length_cells s.fb, FrameBuffer.getElem?_cells s.fb⟩

/-! ## SETKEY -/

theorem State.setKey_keys (s : State) (index : Nat) (b : Bool) (k : Fin 16) :
    (s.setKey index b).keys[k.val] = if k.val = index then b else s.keys[k.val] := by
  by_cases h : index < 16
  · simp only [s.setKey_of_lt index b h, Vector.getElem_set, @eq_comm Nat index]
  · have hk : k.val ≠ index := by omega
    rw [s.setKey_of_ge index b (Nat.le_of_not_lt h), if_neg hk]

theorem State.setKey_frame (s : State) (index : Nat) (b : Bool) :
    s.setKey index b = { s with keys := (s.setKey index b).keys } := by
  by_cases h : index < 16
  · rw [s.setKey_of_lt index b h]
  · rw [s.setKey_of_ge index b (Nat.le_of_not_lt h)]

/-- Settles O49: an index of 0 to 15 is one write of the keypad, and any other index is equal to no key's, so both the
flags and the frame follow from the two cases of the write. -/
theorem setKeySetsOneFlag : Obligations.SetKeySetsOneFlag := by
  intro index pressed s
  exact ⟨s.setKey index pressed, rfl, s.setKey_keys index pressed, s.setKey_frame index pressed⟩

end Sys2Proof.Machine
end

section
/-!
The timers (spec/60_exceptions.md R203): a tick of one timer is the natural-number subtraction of 1, whose floor is 0, and
TICK writes the two timers and nothing else.
-/

namespace Sys2Proof.Machine

/-- The floor of `timerTick` is the truncation of the subtraction on `Nat`. -/
theorem timerTick_toNat (b : Byte) : (timerTick b).toNat = b.toNat - 1 := by
  by_cases h : b = 0x00#8
  · subst h
    rfl
  · have hle : 0x01#8 ≤ b := by bv_omega
    rw [timerTick, if_neg h]
    exact BitVec.toNat_sub_of_le hle

theorem State.setDT_setST (s : State) (d b : Byte) : (s.setDT d).setST b = { s with dt := d, st := b } := rfl

theorem command_tick (s : State) :
    command .tick s =
      .next ((s.setDT (timerTick s.dt)).setST (timerTick s.st), .cue (decide (s.st = 0x01#8))) := rfl

/-- Settles O47: TICK has the one outcome `command_tick`, running or halted, and each timer it writes is one less than
before with floor 0. -/
theorem tickCountsDown : Obligations.TickCountsDown := by
  intro s
  refine ⟨(s.setDT (timerTick s.dt)).setST (timerTick s.st), command_tick s, ?_, ?_, ?_⟩
  · exact timerTick_toNat s.dt
  · exact timerTick_toNat s.st
  · exact s.setDT_setST _ _

end Sys2Proof.Machine
end

section
/-!
Which words are instructions (spec/30_encoding.md R63, R64, R67): the two round trips, and the words the decoder accepts,
nibble by nibble.
-/

namespace Sys2Proof

/-! ## The round trips -/

/-- Settles O2, by the general law of the decoder and the encoder. -/
theorem decodeOfEncode : Obligations.DecodeOfEncode :=
  decode_encode

/-- The reverse round trip: a decoded word is not the refusal, so it is the word of its instruction. -/
theorem encode_of_decode {op : Word} {i : Instr} (h : decode op = .ok i) : encode i = op := by
  obtain hrej | ⟨j, hj, henc⟩ := decode_cases op
  · cases hrej.symm.trans h
  · cases hj.symm.trans h
    exact henc

/-- Settles O3, by the two answers the decoder has. -/
theorem encodeOfDecode : Obligations.EncodeOfDecode :=
  fun _ _ => encode_of_decode

/-- Settles O1, by evaluating the decoder on the fifteen words. -/
theorem exampleWordsDecode : Obligations.ExampleWordsDecode := by
  unfold Obligations.ExampleWordsDecode
  decide

/-! ## The words accepted, by the part of the word the decoder compares -/

theorem decode0_accepts_iff (op : Word) :
    (∃ i, decode0 op = .ok i) ↔ op = 0x0000#16 ∨ op = 0x00E0#16 ∨ op = 0x00EE#16 := by
  unfold decode0
  split_ifs <;> simp_all [reject]

theorem decodeXY0_accepts_iff (op : Word) (i : Instr) : (∃ j, decodeXY0 op i = .ok j) ↔ opN op = 0x0#4 := by
  unfold decodeXY0
  split_ifs with hn <;> simp [reject, hn]

/-- The nine selectors of the ALU group are all nibbles but seven. -/
theorem nibble_not_aluSelector : ∀ d : Nibble,
    d ∉ [0x0#4, 0x1#4, 0x2#4, 0x3#4, 0x4#4, 0x5#4, 0x6#4, 0x7#4, 0xE#4] →
      d ∈ [0x8#4, 0x9#4, 0xA#4, 0xB#4, 0xC#4, 0xD#4, 0xF#4] := by
  decide

theorem decode8_accepts_iff (op : Word) :
    (∃ i, decode8 op = .ok i) ↔ opN op ∉ [0x8#4, 0x9#4, 0xA#4, 0xB#4, 0xC#4, 0xD#4, 0xF#4] := by
  unfold decode8
  split
  case h_10 =>
    have hmem := nibble_not_aluSelector (opN op) (by simp_all)
    simp only [reject, reduceCtorEq, exists_false, false_iff, not_not, hmem]
  all_goals next hn => simp [hn]

theorem decodeE_accepts_iff (low : Nibble) (op : Word) :
    (∃ i, decodeE low op = .ok i) ↔ opNN op = 0x9E#8 ∨ opNN op = 0xA#4 ++ low := by
  unfold decodeE
  split_ifs with hskp hsknp
  · simp [hskp]
  · simp [hsknp]
  · simp only [reject, reduceCtorEq, exists_false, hskp, hsknp, or_self]

theorem decodeF_accepts_iff (op : Word) :
    (∃ i, decodeF op = .ok i) ↔
      opNN op ∈ [0x07#8, 0x0A#8, 0x15#8, 0x18#8, 0x1E#8, 0x29#8, 0x33#8, 0x55#8, 0x65#8] := by
  unfold decodeF
  split
  case h_10 => simp_all [reject]
  all_goals next hnn => simp [hnn]

/-- Settles O5: the highest nibble chooses the part of the decoder, and that part says which words it accepts. -/
theorem unrecognizedWordsByNibble : Obligations.UnrecognizedWordsByNibble := by
  intro op
  refine ⟨fun hd => ?_, fun hd => ?_, fun hd => ?_, fun hd => ?_, fun hd => ?_, fun hd => ?_⟩
  · rw [show decode op = decode0 op by simp [decode, decodeWith, hd]]
    exact decode0_accepts_iff op
  · obtain ⟨i, hdec⟩ : ∃ i, decode op = decodeXY0 op i := by
      obtain hd | hd := hd
      all_goals exact ⟨_, by simp only [decode, decodeWith, hd]; rfl⟩
    rw [hdec]
    exact decodeXY0_accepts_iff op i
  · rw [show decode op = decode8 op by simp [decode, decodeWith, hd]]
    exact decode8_accepts_iff op
  · rw [show decode op = decodeE Config.sknpLow op by simp [decode, decodeWith, hd]]
    exact decodeE_accepts_iff Config.sknpLow op
  · rw [show decode op = decodeF op by simp [decode, decodeWith, hd]]
    exact decodeF_accepts_iff op
  · simp only [List.mem_cons, List.not_mem_nil, or_false] at hd
    obtain hd | hd | hd | hd | hd | hd | hd | hd | hd | hd := hd
    all_goals simp [decode, decodeWith, hd]

/-! ## The low nibble of `SKNP Vx` -/

theorem decodeWith_encodeXNN_E (low : Nibble) (x : Reg) (nn : Byte) :
    decodeWith low (encodeXNN 0xE#4 x nn) =
      if nn = 0x9E#8 then .ok (.skp x) else if nn = 0xA#4 ++ low then .ok (.sknp x)
      else reject (encodeXNN 0xE#4 x nn) := by
  simp [decodeWith, decodeE]

/-- Settles O6: the low byte alone chooses the key test, and 0xAE and 0xA1 are the bytes of the two parameters. -/
theorem sknpLowSelectsOneWord : Obligations.SknpLowSelectsOneWord := by
  intro x
  refine ⟨?_, ?_, ?_, ?_, ?_⟩
  · exact decodeWith_encodeXNN_E 0xE#4 x 0xAE#8
  · exact decodeWith_encodeXNN_E 0xE#4 x 0xA1#8
  · exact decodeWith_encodeXNN_E 0x1#4 x 0xA1#8
  · exact decodeWith_encodeXNN_E 0x1#4 x 0xAE#8
  · exact decodeWith_encodeXNN_E Config.sknpLow x 0xAE#8

end Sys2Proof
end

section
/-!
The call stack (spec/40_control.md R81, R83, R88; spec/60_exceptions.md R193, R194): a call and a return each have one
outcome with room on the stack or an entry on it, and one fault without.
-/

namespace Sys2Proof.Machine

/-- The latched state is the one `FaultedFrom` describes (R196, R197). -/
theorem faultedFrom_latch (s : State) (c : FaultCause) (op : Word) : FaultedFrom s c op (s.latch c op) := rfl

theorem State.push?_of_eq (s : State) (w : Word) (k : Fin 16) (h : s.sp.val = k.val) :
    s.push? w = some { s with stk := s.stk.set k.val w, sp := k.succ } := by
  simp [State.push?, h, Fin.succ]

/-! ## The two outcomes of a call and of a return -/

theorem exec_call_of_eq (nnn : Addr) {s : State} {k : Fin 16} (h : s.sp.val = k.val) :
    exec (.call nnn) s =
      .next { s with stk := s.stk.set k.val (s.pc + 2), sp := k.succ, pc := zextAddr nnn } := by
  change execCall nnn s = _
  simp only [execCall, s.advance.push?_of_eq s.advance.pc k h]
  rfl

theorem exec_call_of_full (nnn : Addr) {s : State} (h : s.sp.val = 16) :
    exec (.call nnn) s = .next (s.latch .stackOverflow (encode (.call nnn))) := by
  change execCall nnn s = _
  simp only [execCall, s.advance.push?_of_full s.advance.pc h, takeFault]

theorem exec_ret_of_succ {s : State} {k : Fin 16} (h : s.sp.val = k.val + 1) :
    exec .ret s = .next { s with sp := k.castSucc, pc := s.stk[k.val] } := by
  change execRet s = _
  simp only [execRet, s.advance.pop?_of_succ k h]
  rfl

theorem exec_ret_of_empty {s : State} (h : s.sp.val = 0) :
    exec .ret s = .next (s.latch .stackUnderflow (encode .ret)) := by
  change execRet s = _
  simp only [execRet, s.advance.pop?_of_empty h, takeFault]

/-! ## The statements -/

/-- Settles O19: the two cases of `SP` are the two outcomes of the push. -/
theorem callPushesReturnAddress : Obligations.CallPushesReturnAddress := by
  intro nnn s
  refine ⟨decode_encode (.call nnn), fun k hk => exec_call_of_eq nnn hk, fun hfull => ?_⟩
  exact ⟨_, exec_call_of_full nnn hfull, faultedFrom_latch s _ _⟩

/-- Settles O20: the two cases of `SP` are the two outcomes of the pop. -/
theorem returnPopsIntoPc : Obligations.ReturnPopsIntoPc := by
  intro s
  refine ⟨decode_encode .ret, fun k hk => exec_ret_of_succ hk, fun hempty => ?_⟩
  exact ⟨_, exec_ret_of_empty hempty, faultedFrom_latch s _ _⟩

/-- Settles O21: the call leaves `SP = k + 1` and the return address at `STK[k]`, which is where the return pops. -/
theorem callThenReturnResumes : Obligations.CallThenReturnResumes := by
  intro nnn s hsp
  have hk : s.sp.val = (⟨s.sp.val, hsp⟩ : Fin 16).val := rfl
  refine ⟨_, _, exec_call_of_eq nnn hk, exec_ret_of_succ rfl, Vector.getElem_set_self _, rfl, fun k => ?_, rfl⟩
  simp only [Vector.getElem_set, @eq_comm Nat s.sp.val]

/-- The largest sum is 255 + 4095, so the addition of words does not wrap. -/
theorem toNat_zextByte_add_zextAddr (b : Byte) (nnn : Addr) :
    (zextByte b + zextAddr nnn).toNat = b.toNat + nnn.toNat := by
  have hb : (zextByte b).toNat = b.toNat := BitVec.toNat_setWidth_of_le (by decide)
  rw [BitVec.toNat_add, hb, toNat_zextAddr]
  omega

/-- Settles O18: the jump writes the sum of the two extended operands, which is their sum as numbers. -/
theorem jumpViaV0AddsUnmasked : Obligations.JumpViaV0AddsUnmasked := by
  intro nnn
  refine ⟨decode_encode (.jpV0 nnn), fun s => ?_⟩
  exact ⟨_, rfl, toNat_zextByte_add_zextAddr (s.getV 0) nnn, rfl⟩

end Sys2Proof.Machine
end

section
/-!
The key tests (spec/44_keypad_timers.md R150, R151, R156): the whole of `V[x]` is the key's number, and a value that is
none is KeyIndexOutOfRange.
-/

namespace Sys2Proof.Machine

theorem exec_skp_of_key {x : Reg} {s : State} {k : Fin 16} (h : (s.getV x).toNat = k.val) :
    exec (.skp x) s = .next (s.advance.skipIf (s.key k)) := by
  change execSkp x s = _
  simp only [execSkp, keyIndex?_of_lt _ k h]

theorem exec_sknp_of_key {x : Reg} {s : State} {k : Fin 16} (h : (s.getV x).toNat = k.val) :
    exec (.sknp x) s = .next (s.advance.skipIf (!s.key k)) := by
  change execSknp x s = _
  simp only [execSknp, keyIndex?_of_lt _ k h]

theorem exec_skp_of_gt {x : Reg} {s : State} (h : 15 < (s.getV x).toNat) :
    exec (.skp x) s = .next (s.latch .keyIndexOutOfRange (encode (.skp x))) := by
  change execSkp x s = _
  simp only [execSkp, keyIndex?_of_ge _ h, takeFault]

theorem exec_sknp_of_gt {x : Reg} {s : State} (h : 15 < (s.getV x).toNat) :
    exec (.sknp x) s = .next (s.latch .keyIndexOutOfRange (encode (.sknp x))) := by
  change execSknp x s = _
  simp only [execSknp, keyIndex?_of_ge _ h, takeFault]

/-- Settles O44: with a key's number in `V[x]` each meaning is one skip test of that key's level, and otherwise each takes
its fault. -/
theorem skipsOnKey : Obligations.SkipsOnKey := by
  intro x
  refine ⟨decode_encode (.skp x), decode_encode (.sknp x), fun s => ⟨fun k hk => ⟨?_, ?_⟩, fun hgt => ⟨?_, ?_⟩⟩⟩
  · rw [exec_skp_of_key hk, State.skipIf_advance, State.key]
  · rw [exec_sknp_of_key hk, State.skipIf_advance, State.key]
    cases s.keys[k.val] <;> rfl
  · exact ⟨_, exec_skp_of_gt hgt, faultedFrom_latch s _ _⟩
  · exact ⟨_, exec_sknp_of_gt hgt, faultedFrom_latch s _ _⟩

end Sys2Proof.Machine
end

section
/-!
The random byte and the glyph address (spec/41_alu.md R112, spec/42_index_memory.md R122).
-/

namespace Sys2Proof.Machine

/-- Settles O29: `exec` is the meaning with the next draw in place of `r`, and that meaning is a write of `V[x]` in the
state in which the draw is consumed. -/
theorem randomByteIsMasked : Obligations.RandomByteIsMasked := by
  intro x nn
  refine ⟨decode_encode (.rnd x nn), fun s => ⟨rfl, fun r => ?_⟩⟩
  exact ⟨s.drawn.advance.setV x (r &&& nn), rfl, rfl, State.getV_setV_same _ x _,
    keepsRegsBut_advance_setV s.drawn x _, rfl⟩

/-- The mask 0x0F is the remainder by 16, and five times it fits a word with room to spare. -/
theorem toNat_glyphAddr_times5 (b : Byte) : (glyphAddr .times5 b).toNat = 5 * (b.toNat % 16) := by
  have hmask : (b &&& 0x0F#8).toNat = b.toNat % 16 := by
    rw [BitVec.toNat_and]
    exact Nat.and_two_pow_sub_one_eq_mod b.toNat 4
  rw [glyphAddr, hmask, BitVec.toNat_ofNat]
  omega

/-- Settles O32: the parameter selects the first mode, whose address is computed above; the other mode is its own
definition. -/
theorem glyphAddress : Obligations.GlyphAddress := by
  refine ⟨fun x => ⟨decode_encode (.ldF x), fun s => ?_⟩, fun b => rfl⟩
  exact ⟨s.advance.setI _, rfl, toNat_glyphAddr_times5 (s.getV x), s.advance_setI _⟩

end Sys2Proof.Machine
end

section
/-!
The stores and loads at `I` (spec/42_index_memory.md R123 to R125, spec/20_memory.md R44, R45, R53): one law for each of the
two outcomes of a store and of a load, from which the statements about their bytes follow.
-/

namespace Sys2Proof.Machine

/-! ## The range check -/

/-- A range that is not empty is checked on its highest address. -/
theorem State.rangeOk_succ (s : State) (n : Nat) : s.rangeOk (n + 1) = decide (s.effAddr n ≤ 0xFFF) := by
  simp [State.rangeOk]

theorem State.rangeOk_of_le {s : State} {n : Nat} (h : s.effAddr n ≤ 0xFFF) : s.rangeOk (n + 1) = true := by
  rw [s.rangeOk_succ, decide_eq_true h]

theorem State.rangeOk_of_gt {s : State} {n : Nat} (h : 0xFFF < s.effAddr n) : s.rangeOk (n + 1) = false := by
  rw [s.rangeOk_succ, decide_eq_false (Nat.not_le.mpr h)]

/-! ## Stores -/

/-- The state after the bytes `bs` have been stored from `I` up. -/
def State.stored (s : State) (bs : List Byte) : State := s.advance.setMem (s.mem.writeBytes (s.effAddr 0) bs)

theorem storeAtI_of_ok (i : Instr) {bs : List Byte} {s : State} (h : s.rangeOk bs.length = true) :
    storeAtI i bs s = .next (s.stored bs) := by
  rw [storeAtI, h, checked_true, State.stored]

theorem storeAtI_of_not_ok (i : Instr) {bs : List Byte} {s : State} (h : s.rangeOk bs.length = false) :
    storeAtI i bs s = .next (s.latch .memoryOutOfBounds (encode i)) := by
  rw [storeAtI, h, checked_false]

theorem State.stored_frame (s : State) (bs : List Byte) :
    s.stored bs = { s with mem := (s.stored bs).mem, pc := s.pc + 2 } := rfl

theorem State.read_stored (s : State) (bs : List Byte) (k : Nat) (h : k < bs.length) :
    (s.stored bs).mem.read (s.effAddr k) = bs[k] :=
  Memory.read_writeBytes_inside s.mem (s.effAddr 0) bs k h

theorem State.keepsMemoryBut_stored (s : State) (bs : List Byte) :
    KeepsMemoryBut (s.effAddr 0) bs.length s (s.stored bs) :=
  fun _ => Memory.read_writeBytes_outside s.mem (s.effAddr 0) bs

theorem exec_ldB_of_le (x : Reg) {s : State} (h : s.effAddr 2 ≤ 0xFFF) :
    exec (.ldB x) s = .next (s.stored (decimalDigits (s.getV x))) :=
  storeAtI_of_ok _ (s.rangeOk_of_le h)

theorem exec_ldB_of_gt (x : Reg) {s : State} (h : 0xFFF < s.effAddr 2) :
    exec (.ldB x) s = .next (s.latch .memoryOutOfBounds (encode (.ldB x))) :=
  storeAtI_of_not_ok _ (s.rangeOk_of_gt h)

theorem exec_storeRange_of_le {x : Reg} {s : State} (h : s.effAddr x.val ≤ 0xFFF) :
    exec (.storeRange x) s = .next (s.stored (s.regsUpTo x)) :=
  storeAtI_of_ok _ (by rw [s.length_regsUpTo, State.rangeOk_of_le h])

theorem exec_storeRange_of_gt {x : Reg} {s : State} (h : 0xFFF < s.effAddr x.val) :
    exec (.storeRange x) s = .next (s.latch .memoryOutOfBounds (encode (.storeRange x))) :=
  storeAtI_of_not_ok _ (by rw [s.length_regsUpTo, State.rangeOk_of_gt h])

theorem State.read_stored_regsUpTo (s : State) {x k : Reg} (h : k ≤ x) :
    (s.stored (s.regsUpTo x)).mem.read (s.effAddr k.val) = s.getV k := by
  have hk : k.val < (s.regsUpTo x).length := by
    rw [s.length_regsUpTo]
    exact Nat.lt_succ_of_le h
  rw [s.read_stored _ _ hk, State.getElem_regsUpTo]

/-- Settles O33: the store of the three digits, read back one by one. -/
theorem decimalDigitsAreStored : Obligations.DecimalDigitsAreStored := by
  intro x
  refine ⟨decode_encode (.ldB x), fun s => ⟨fun hle => ?_, fun hgt => ?_⟩⟩
  · have hread (k : Nat) (hk : k < 3) := s.read_stored (decimalDigits (s.getV x)) k hk
    exact ⟨_, exec_ldB_of_le x hle, hread 0 (by decide), hread 1 (by decide), hread 2 (by decide),
      s.keepsMemoryBut_stored (decimalDigits (s.getV x)), s.stored_frame _⟩
  · exact ⟨_, exec_ldB_of_gt x hgt, faultedFrom_latch s _ _⟩

/-- Settles O34: the store of the registers `V[0]` to `V[x]`, and the frame of a store. -/
theorem registerRangeIsStored : Obligations.RegisterRangeIsStored := by
  intro x
  refine ⟨decode_encode (.storeRange x), fun s => ⟨fun hle => ?_, fun hgt => ?_⟩⟩
  · have hkeep := s.keepsMemoryBut_stored (s.regsUpTo x)
    rw [s.length_regsUpTo] at hkeep
    exact ⟨_, exec_storeRange_of_le hle, fun k => s.read_stored_regsUpTo, hkeep, s.stored_frame _⟩
  · exact ⟨_, exec_storeRange_of_gt hgt, faultedFrom_latch s _ _⟩

/-- Settles O37: the fetch reads the two bytes at `a` and `a + 1`, which are those the store has put there. -/
theorem storedBytesAreFetched : Obligations.StoredBytesAreFetched := by
  intro x j k s a hle hkj hkx ha
  refine ⟨_, exec_storeRange_of_le hle, ?_⟩
  have hkx' : k.val ≤ x.val := hkx
  have hj : (s.stored (s.regsUpTo x)).mem.read a.toNat = s.getV j := by
    rw [ha]
    exact s.read_stored_regsUpTo (Fin.le_def.mpr (by omega))
  have hk : (s.stored (s.regsUpTo x)).mem.read (a.toNat + 1) = s.getV k := by
    rw [ha, show s.effAddr j.val + 1 = s.effAddr k.val by simp only [State.effAddr]; omega]
    exact s.read_stored_regsUpTo hkx
  have ha' : a.toNat ≤ 0xFFE := by
    simp only [State.effAddr] at ha hle
    omega
  rw [State.fetch?_of_le _ ha', hj, hk, wordOf]

/-! ## Loads -/

/-- The state after `V[0]` to `V[x]` have been loaded from `I` up. -/
def State.loaded (s : State) (x : Reg) : State := s.advance.setRegs (s.mem.readBytes (s.effAddr 0) (x.val + 1))

theorem exec_loadRange_of_le {x : Reg} {s : State} (h : s.effAddr x.val ≤ 0xFFF) :
    exec (.loadRange x) s = .next (s.loaded x) := by
  change execLoadRange x s = _
  rw [execLoadRange, State.rangeOk_of_le h, checked_true, State.loaded]

theorem exec_loadRange_of_gt {x : Reg} {s : State} (h : 0xFFF < s.effAddr x.val) :
    exec (.loadRange x) s = .next (s.latch .memoryOutOfBounds (encode (.loadRange x))) := by
  change execLoadRange x s = _
  rw [execLoadRange, State.rangeOk_of_gt h, checked_false]

theorem State.getV_loaded (s : State) (x k : Reg) :
    (s.loaded x).getV k = if k ≤ x then s.mem.read (s.effAddr k.val) else s.getV k := by
  simp only [State.loaded, State.getV_setRegs, Memory.length_readBytes, Memory.getElem_readBytes, State.getV_advance,
    State.effAddr, Nat.add_zero, Nat.lt_succ_iff, Fin.le_def, dite_eq_ite]

theorem State.keepsAllButRegs_loaded (s : State) (x : Reg) : KeepsAllButRegs s (s.loaded x) :=
  keepsAllButRegs_advance s

/-- Settles O35: `getV_loaded` gives every register, and a load writes nothing but registers. -/
theorem registerRangeIsLoaded : Obligations.RegisterRangeIsLoaded := by
  intro x
  refine ⟨decode_encode (.loadRange x), fun s => ⟨fun hle => ?_, fun hgt => ?_⟩⟩
  · refine ⟨_, exec_loadRange_of_le hle, rfl, fun k hk => ?_, fun k hk => ?_, s.keepsAllButRegs_loaded x⟩
    · rw [s.getV_loaded, if_pos hk]
    · rw [s.getV_loaded, if_neg (not_le.mpr hk)]
  · exact ⟨_, exec_loadRange_of_gt hgt, faultedFrom_latch s _ _⟩

/-- Settles O36: the store leaves `I` alone, so the load reads the addresses the store has written. -/
theorem storeThenLoadRestores : Obligations.StoreThenLoadRestores := by
  intro x s v hle
  have hle' : ({ s.stored (s.regsUpTo x) with v := v } : State).effAddr x.val ≤ 0xFFF := hle
  refine ⟨_, _, exec_storeRange_of_le hle, exec_loadRange_of_le hle', fun k hk => ?_, fun _ => rfl⟩
  rw [State.getV_loaded, if_pos hk]
  exact s.read_stored_regsUpTo hk

end Sys2Proof.Machine
end

section
/-!
The canonical form of memory determines the list (log entry 11).
-/

namespace Sys2Proof.Machine

/-- In a memory of rising addresses a listed cell is the one a read of its address finds. -/
theorem Memory.read_of_mem {m : Memory} (hm : m.Pairwise (fun c d => c.1 < d.1)) {c : Host.Cell} (hc : c ∈ m) :
    m.read c.1 = c.2 := by
  induction m with
  | nil => cases hc
  | cons d m ih =>
    rw [List.pairwise_cons] at hm
    obtain ⟨hd, hm⟩ := hm
    obtain rfl | hc := List.mem_cons.mp hc
    · exact if_pos rfl
    · exact (if_neg (hd c hc).ne).trans (ih hm hc)

/-- A read that finds no cell finds the reset contents. -/
theorem Memory.read_eq_unlisted {m : Memory} {a : Nat} (h : ∀ c ∈ m, c.1 ≠ a) : m.read a = Memory.unlisted a := by
  induction m with
  | nil => rfl
  | cons d m ih =>
    exact (if_neg (h d List.mem_cons_self)).trans (ih fun c hc => h c (List.mem_cons_of_mem d hc))

/-- A canonical memory lists exactly the bytes that differ from their reset contents. -/
theorem Memory.mem_iff_of_wf {m : Memory} (hm : m.wf = true) (c : Host.Cell) :
    c ∈ m ↔ m.read c.1 = c.2 ∧ c.2 ≠ Memory.unlisted c.1 := by
  obtain ⟨hrising, hcells⟩ := (Memory.wf_iff m).mp hm
  constructor
  · intro hc
    exact ⟨Memory.read_of_mem hrising hc, (hcells c hc).2⟩
  · rintro ⟨hread, hne⟩
    by_contra hc
    obtain ⟨d, hd, hdc⟩ : ∃ d ∈ m, d.1 = c.1 := by
      by_contra hnone
      push Not at hnone
      exact hne (hread.symm.trans (Memory.read_eq_unlisted hnone))
    have hval : d.2 = c.2 := by rw [← Memory.read_of_mem hrising hd, hdc, hread]
    exact hc (Prod.ext hdc hval ▸ hd)

/-- Settles O38: both memories list the same cells, in rising order of address. -/
theorem canonicalMemoriesAreUnique : Obligations.CanonicalMemoriesAreUnique := by
  intro m n hm hn hread
  have hirrefl : Std.Irrefl (fun c d : Host.Cell => c.1 < d.1) := ⟨fun c => lt_irrefl c.1⟩
  have hasymm : Std.Asymm (fun c d : Host.Cell => c.1 < d.1) := ⟨fun _ _ => lt_asymm⟩
  refine ((Memory.wf_iff m).mp hm).1.eq_of_mem_iff ((Memory.wf_iff n).mp hn).1 fun c => ?_
  rw [Memory.mem_iff_of_wf hm, Memory.mem_iff_of_wf hn, hread]

end Sys2Proof.Machine
end

section
/-!
Drawing (spec/43_display.md R141, R142): a draw whose sprite lies in memory is `State.paint` of the cells its sprite covers,
and `drawCells_spec` says what painting does to every cell and to the collision.
-/

namespace Sys2Proof.Machine

/-- The sprite's bytes lie in memory, or there are none: the hypothesis under which a draw completes. -/
theorem State.rangeOk_of_sprite {s : State} {n : Nibble} (h : n = 0x0#4 ∨ s.effAddr (n.toNat - 1) ≤ 0xFFF) :
    s.rangeOk n.toNat = true :=
  (s.rangeOk_iff n.toNat).mpr (h.imp_left (congrArg BitVec.toNat))

theorem exec_drw_of_ok (x y : Reg) {n : Nibble} {s : State} (h : s.rangeOk n.toNat = true) :
    exec (.drw x y n) s = .next (s.paint (s.spriteCells x y n)) := by
  change execDrw x y n s = _
  rw [execDrw, h, checked_true]

theorem exec_drw_of_not_ok (x y : Reg) {n : Nibble} {s : State} (h : s.rangeOk n.toNat = false) :
    exec (.drw x y n) s = .next (s.latch .memoryOutOfBounds (encode (.drw x y n))) := by
  change execDrw x y n s = _
  rw [execDrw, h, checked_false]

/-! ## What painting writes -/

theorem State.paint_fb (s : State) (cs : List (Fin 64 × Fin 32)) : (s.paint cs).fb = (drawCells s.fb cs).1 := rfl

theorem State.getV_paint_flag (s : State) (cs : List (Fin 64 × Fin 32)) :
    (s.paint cs).getV regVF = drawFlag Config.drawNoCollisionFlag (drawCells s.fb cs).2 :=
  State.getV_setFlag_same _ _

theorem State.getV_paint_ne (s : State) (cs : List (Fin 64 × Fin 32)) {k : Reg} (h : k ≠ regVF) :
    (s.paint cs).getV k = s.getV k :=
  State.getV_setFlag_ne _ _ h

/-! ## The covered cells -/

theorem State.mem_spriteCells_iff (s : State) (x y : Reg) (n : Nibble) (px : Fin 64) (py : Fin 32) :
    (px, py) ∈ s.spriteCells x y n ↔ SpriteCovers s x y n px py :=
  (s.spriteCells_spec x y n).2 px py

theorem State.cell_drawn (s : State) (x y : Reg) (n : Nibble) (px : Fin 64) (py : Fin 32) :
    FrameBuffer.cell (drawCells s.fb (s.spriteCells x y n)).1 px py =
      if (px, py) ∈ s.spriteCells x y n then !FrameBuffer.cell s.fb px py else FrameBuffer.cell s.fb px py :=
  (drawCells_spec s.fb _ (s.spriteCells_spec x y n).1).1 px py

theorem State.collided_iff (s : State) (x y : Reg) (n : Nibble) :
    (drawCells s.fb (s.spriteCells x y n)).2 = true ↔
      ∃ px py, SpriteCovers s x y n px py ∧ FrameBuffer.cell s.fb px py = true := by
  rw [(drawCells_spec s.fb _ (s.spriteCells_spec x y n).1).2, Prod.exists]
  simp only [s.mem_spriteCells_iff]

/-! ## The statements -/

/-- Settles O40: painting toggles the covered cells and no others, and its flag is 1 exactly on a collision or where the
parameter says so. -/
theorem drawInvertsCoveredCells : Obligations.DrawInvertsCoveredCells := by
  intro x y n
  refine ⟨decode_encode (.drw x y n), fun s hin => ?_⟩
  refine ⟨_, exec_drw_of_ok x y (State.rangeOk_of_sprite hin), rfl, fun px py hcov => ?_, fun px py hcov => ?_,
    fun hlit => ?_, fun hdark => ?_, ?_⟩
  · rw [State.paint_fb, s.cell_drawn, if_pos ((s.mem_spriteCells_iff ..).mpr hcov)]
  · rw [State.paint_fb, s.cell_drawn, if_neg (mt (s.mem_spriteCells_iff ..).mp hcov)]
  · rw [State.getV_paint_flag, (s.collided_iff x y n).mpr hlit]
    rfl
  · have hno : (drawCells s.fb (s.spriteCells x y n)).2 = false := by
      rw [← Bool.not_eq_true, s.collided_iff]
      rintro ⟨px, py, hcov, hlit⟩
      exact absurd hlit (by simp [hdark px py hcov])
    rw [State.getV_paint_flag, hno]
    rfl
  · refine ⟨fun k hk => s.getV_paint_ne _ (by simpa using hk), ?_⟩
    exact ⟨rfl, ⟨rfl, rfl⟩, ⟨rfl, rfl⟩, rfl, fun _ => rfl, ⟨rfl, rfl⟩, rfl⟩

/-- Settles O43: the value of the parameter makes the flag 1 in both cases. -/
theorem flagIsOneAfterEveryDraw : Obligations.FlagIsOneAfterEveryDraw := by
  intro x y n s hin
  refine ⟨_, exec_drw_of_ok x y (State.rangeOk_of_sprite hin), ?_⟩
  rw [State.getV_paint_flag, drawFlag, Config.drawNoCollisionFlag, Bool.or_true]
  rfl

/-- Settles O41: with `n >= 1` the check of the range is the check of its last address, and it fails. -/
theorem drawOutsideMemoryFaults : Obligations.DrawOutsideMemoryFaults := by
  intro x y n s hn hgt
  have hpos : n.toNat ≠ 0 := fun h0 => hn (BitVec.eq_of_toNat_eq h0)
  have hout : s.rangeOk n.toNat = false := by
    rw [← Nat.succ_pred hpos]
    exact State.rangeOk_of_gt hgt
  exact ⟨_, exec_drw_of_not_ok x y hout, faultedFrom_latch s _ _⟩

/-- A draw moves none of the operands of the next one, unless a coordinate is VF. -/
theorem State.spriteCells_paint (s : State) {x y : Reg} (n : Nibble) (hx : x ≠ regVF) (hy : y ≠ regVF)
    (cs : List (Fin 64 × Fin 32)) : (s.paint cs).spriteCells x y n = s.spriteCells x y n := by
  rw [State.spriteCells, s.getV_paint_ne cs hx, s.getV_paint_ne cs hy]
  rfl

/-- Settles O42: the second draw toggles the same cells as the first, so every cell is back. -/
theorem drawTwiceRestoresDisplay : Obligations.DrawTwiceRestoresDisplay := by
  intro x y n s hx hy hin
  have hok : s.rangeOk n.toNat = true := State.rangeOk_of_sprite hin
  refine ⟨_, _, exec_drw_of_ok x y hok, exec_drw_of_ok x y hok, FrameBuffer.ext_cell fun px py => ?_⟩
  rw [State.paint_fb, State.cell_drawn, s.spriteCells_paint n hx hy, State.paint_fb, s.cell_drawn]
  split_ifs <;> simp

end Sys2Proof.Machine
end

section
/-!
The host commands (spec/45_host_commands.md R171, R176, R220; spec/60_exceptions.md R203; spec/70_reset_and_hazards.md
R222): LOAD, RESET, the boot sequence of the two, and a run of TICKs.
-/

namespace Sys2Proof.Machine

/-! ## LOAD -/

/-- The state after an image of bytes has been copied to 0x200 and up. -/
def State.withImage (s : State) (image : List Byte) : State := s.setMem (s.mem.writeBytes Config.progBase image)

theorem command_load_of_le {image : List Byte} (s : State) (h : image.length ≤ Config.progMax) :
    command (.load image) s = .next (s.withImage image, .ok) := by
  rw [command, load, if_neg (Nat.not_lt.mpr h), State.withImage]

theorem command_load_of_gt {image : List Byte} (s : State) (h : Config.progMax < image.length) :
    command (.load image) s = .next (s, .programTooLarge) := by
  rw [command, load, if_pos h]

theorem State.read_withImage_inside (s : State) (image : List Byte) (k : Nat) (h : k < image.length) :
    (s.withImage image).mem.read (0x200 + k) = image[k] :=
  Memory.read_writeBytes_inside s.mem Config.progBase image k h

theorem State.keepsMemoryBut_withImage (s : State) (image : List Byte) :
    KeepsMemoryBut 0x200 image.length s (s.withImage image) :=
  fun _ => Memory.read_writeBytes_outside s.mem Config.progBase image

/-- Settles O50: the two branches of LOAD. -/
theorem loadCopiesTheImage : Obligations.LoadCopiesTheImage := by
  intro image s
  refine ⟨fun hle => ?_, command_load_of_gt s⟩
  exact ⟨s.withImage image, command_load_of_le s hle, s.read_withImage_inside image,
    s.keepsMemoryBut_withImage image, rfl⟩

/-! ## RESET -/

/-- The reset contents below 0x050 are the glyph table (R30, R31). -/
theorem Memory.unlisted_of_lt {a : Nat} (h : a < 80) : Config.font[a]? = some (Memory.unlisted a) := by
  have hlen : a < Config.font.length := h
  rw [Memory.unlisted, if_pos (show a < Config.glyphBytes from h), List.getElem?_eq_getElem hlen,
    List.getD_eq_getElem _ _ hlen]

/-- The reset contents from 0x050 up are zeros (R30). -/
theorem Memory.unlisted_of_ge {a : Nat} (h : 80 ≤ a) : Memory.unlisted a = 0x00#8 :=
  if_neg (Nat.not_lt.mpr h)

theorem State.read_afterReset (s : State) (a : Nat) : s.afterReset.mem.read a = Memory.unlisted a := rfl

/-- Settles O51: the next state is the reset state but for the count of draws; the items that are vectors hold one value at
every index, and memory lists nothing. -/
theorem resetRestoresEverything : Obligations.ResetRestoresEverything := by
  intro s
  refine ⟨s.afterReset, rfl, rfl, FrameBuffer.cell_clear, fun a => Memory.unlisted_of_lt,
    fun a => Memory.unlisted_of_ge, fun k => ?_, rfl, rfl, fun k => ?_, rfl, rfl, fun k => ?_, rfl, rfl, rfl⟩
  all_goals exact Vector.getElem_replicate k.isLt

/-! ## The boot sequence -/

theorem runCommands_pair {c d : Command} {s t u : State} {r q : Response} (hc : command c s = .next (t, r))
    (hd : command d t = .next (u, q)) : runCommands [c, d] s = .next (u, [r, q]) := by
  simp only [runCommands, hc, hd]

/-- Settles O53: LOAD into the state after RESET puts the image over contents that are the glyph table and zeros. -/
theorem bootLeavesTheImage : Obligations.BootLeavesTheImage := by
  intro s image _ hle
  refine ⟨s.afterReset.withImage image, runCommands_pair rfl (command_load_of_le _ hle), rfl, rfl, rfl,
    State.read_withImage_inside _ image, fun a ha => ?_, fun a ha hout => ?_⟩
  · rw [State.keepsMemoryBut_withImage _ image a (by omega), State.read_afterReset]
    exact Memory.unlisted_of_lt ha
  · rw [State.keepsMemoryBut_withImage _ image a hout, State.read_afterReset]
    exact Memory.unlisted_of_ge ha

/-! ## Runs of TICKs -/

/-- The state after one TICK. -/
def State.ticked (s : State) : State := (s.setDT (timerTick s.dt)).setST (timerTick s.st)

theorem State.ticked_st_toNat (s : State) : s.ticked.st.toNat = s.st.toNat - 1 := timerTick_toNat s.st

theorem State.ticked_dt_toNat (s : State) : s.ticked.dt.toNat = s.dt.toNat - 1 := timerTick_toNat s.dt

/-- The responses to `n` TICKs: the cue on the one at which `ST` comes to 0. -/
def tickCues (n st : Nat) : List Response := (List.range n).map fun k => .cue (decide (st = k + 1))

/-- The first of the responses looks at `ST` as it is, and the others at `ST` after the first TICK. -/
theorem tickCues_succ (n st : Nat) : tickCues (n + 1) st = .cue (decide (st = 1)) :: tickCues n (st - 1) := by
  have hshift : ∀ k : Nat, st - 1 = k + 1 ↔ st = k + 1 + 1 := fun k => by omega
  simp only [tickCues, List.range_succ_eq_map, List.map_cons, List.map_map, Function.comp_def, Nat.zero_add, hshift]

theorem command_tick_ticked (s : State) : command .tick s = .next (s.ticked, .cue (decide (s.st.toNat = 1))) := by
  have hst : s.st = 0x01#8 ↔ s.st.toNat = 1 := BitVec.toNat_inj.symm
  rw [command_tick, State.ticked, decide_eq_decide.mpr hst]

/-- Settles O48, by induction on the number of TICKs, the first one taken off the front of the run. -/
theorem ticksRunTimersOut : Obligations.TicksRunTimersOut := by
  intro n
  induction n with
  | zero => exact fun s => ⟨s, rfl, rfl, rfl, rfl⟩
  | succ n ih =>
    intro s
    obtain ⟨t, hrun, hdt, hst, hframe⟩ := ih s.ticked
    refine ⟨t, ?_, ?_, ?_, ?_⟩
    · change _ = Host.Outcome.next (t, tickCues (n + 1) s.st.toNat)
      rw [tickCues_succ, ← s.ticked_st_toNat, List.replicate_succ]
      simp only [runCommands, command_tick_ticked, hrun, tickCues]
    · rw [hdt, s.ticked_dt_toNat, Nat.sub_sub, Nat.add_comm]
    · rw [hst, s.ticked_st_toNat, Nat.sub_sub, Nat.add_comm]
    · exact hframe

end Sys2Proof.Machine
end

section
/-!
What an instruction can do, said once for all 35: the check it makes before it writes anything, and for each item of state
the instructions that write it and what they write. `exec_eq` ties both to `exec`; the rules about the whole machine are
read off these functions, item by item, and no later proof unfolds a meaning.
-/

namespace Sys2Proof.Machine

/-! ## The checks (spec/60_exceptions.md R190, R192 to R195) -/

/-- The fault of an access to the `count` bytes from `I` up. -/
def State.rangeFault? (s : State) (count : Nat) : Option FaultCause :=
  if s.rangeOk count then none else some .memoryOutOfBounds

/-- The fault of a key index. -/
def keyFault? (b : Byte) : Option FaultCause := if 15 < b.toNat then some .keyIndexOutOfRange else none

/-- The fault an instruction takes instead of completing, if there is one. -/
def faultOf? (i : Instr) (s : State) : Option FaultCause :=
  match i with
  | .ret => if s.sp.val = 0 then some .stackUnderflow else none
  | .call _ => if s.sp.val = 16 then some .stackOverflow else none
  | .skp x | .sknp x => keyFault? (s.getV x)
  | .drw _ _ n => s.rangeFault? n.toNat
  | .ldB _ => s.rangeFault? 3
  | .storeRange x | .loadRange x => s.rangeFault? (x.val + 1)
  | _ => none

/-! ## What a completed instruction writes -/

/-- The level of the key a byte numbers. -/
def State.keyAt (s : State) (b : Byte) : Bool := (keyIndex? b).any s.key

/-- The condition on which a skip passes over the next instruction (spec/40_control.md R84 to R89). -/
def skips (i : Instr) (s : State) : Bool :=
  match i with
  | .seImm x nn => s.getV x == nn
  | .sneImm x nn => s.getV x != nn
  | .seReg x y => s.getV x == s.getV y
  | .sneReg x y => s.getV x != s.getV y
  | .skp x => s.keyAt (s.getV x)
  | .sknp x => !s.keyAt (s.getV x)
  | _ => false

/-- The entry a pop reads, `STK[SP - 1]`. -/
def State.stackTop (s : State) : Word := s.stk[s.sp.val - 1]'(by have := s.sp.isLt; omega)

/-- `PC`: the jumps, the key wait, and every other instruction as a skip test, which for most fails. -/
def pcAfter (i : Instr) (s : State) : Word :=
  match i with
  | .ret => s.stackTop
  | .jp nnn | .call nnn => zextAddr nnn
  | .jpV0 nnn => zextByte (s.getV 0) + zextAddr nnn
  | .ldKey _ => if s.lowestKey?.isSome then s.pc + 2 else s.pc
  | i => if skips i s then s.pc + 4 else s.pc + 2

/-- The general registers: the results of spec/41_alu.md, the two of spec/44_keypad_timers.md, the range load, and the
flag of a draw. -/
def regsAfter (i : Instr) (s : State) : Vector Byte 16 :=
  match i with
  | .ldImm x nn => (s.setV x nn).v
  | .addImm x nn => (s.setV x (s.getV x + nn)).v
  | .ldReg x y => (s.setV x (s.getV y)).v
  | .orReg x y => (s.setV x (s.getV x ||| s.getV y)).v
  | .andReg x y => (s.setV x (s.getV x &&& s.getV y)).v
  | .xorReg x y => (s.setV x (s.getV x ^^^ s.getV y)).v
  | .addReg x y => ((s.setV x (s.getV x + s.getV y)).setFlag (carry (s.getV x) (s.getV y))).v
  | .subReg x y => ((s.setV x (s.getV x - s.getV y)).setFlag (notBorrow (s.getV x) (s.getV y))).v
  | .shr x _ => ((s.setV x (s.getV x >>> 1)).setFlag (lsbFlag (s.getV x))).v
  | .subnReg x y => ((s.setV x (s.getV y - s.getV x)).setFlag (notBorrow (s.getV y) (s.getV x))).v
  | .shl x _ => ((s.setV x (s.getV x <<< 1)).setFlag (msbFlag (s.getV x))).v
  | .rnd x nn => (s.setV x (s.draw &&& nn)).v
  | .drw x y n => (s.paint (s.spriteCells x y n)).v
  | .ldFromDT x => (s.setV x s.dt).v
  | .ldKey x => (s.lowestKey?.map fun k => (s.setV x (BitVec.ofNat 8 k.val)).v).getD s.v
  | .loadRange x => (s.loaded x).v
  | _ => s.v

/-- The index register (spec/42_index_memory.md R120 to R122). -/
def indexAfter (i : Instr) (s : State) : Word :=
  match i with
  | .ldI nnn => zextAddr nnn
  | .addI x => s.i + zextByte (s.getV x)
  | .ldF x => glyphAddr Config.fx29Mode (s.getV x)
  | _ => s.i

/-- The stack entries (R83): a pop leaves them alone (R81). -/
def stackAfter (i : Instr) (s : State) : Vector Word 16 :=
  match i with
  | .call _ => s.stk.setIfInBounds s.sp.val (s.pc + 2)
  | _ => s.stk

/-- The stack pointer (R81, R83). -/
def spAfter (i : Instr) (s : State) : Fin 17 :=
  match i with
  | .ret => s.sp - 1
  | .call _ => s.sp + 1
  | _ => s.sp

/-- The delay timer (R154). -/
def dtAfter (i : Instr) (s : State) : Byte :=
  match i with
  | .ldToDT x => s.getV x
  | _ => s.dt

/-- The sound timer (R155). -/
def stAfter (i : Instr) (s : State) : Byte :=
  match i with
  | .ldToST x => s.getV x
  | _ => s.st

/-- The framebuffer (spec/43_display.md R140, R142). -/
def fbAfter (i : Instr) (s : State) : FrameBuffer :=
  match i with
  | .cls => FrameBuffer.clear
  | .drw x y n => (drawCells s.fb (s.spriteCells x y n)).1
  | _ => s.fb

/-- Memory (spec/42_index_memory.md R123, R124). -/
def memAfter (i : Instr) (s : State) : Memory :=
  match i with
  | .ldB x => s.mem.writeBytes (s.effAddr 0) (decimalDigits (s.getV x))
  | .storeRange x => s.mem.writeBytes (s.effAddr 0) (s.regsUpTo x)
  | _ => s.mem

/-- The count of draws (log entries 6 and 7). -/
def drawsAfter (i : Instr) (s : State) : Nat :=
  match i with
  | .rnd _ _ => s.draws + 1
  | _ => s.draws

/-- The state in which `i` completes. -/
def completed (i : Instr) (s : State) : State where
  v := regsAfter i s
  pc := pcAfter i s
  i := indexAfter i s
  stk := stackAfter i s
  sp := spAfter i s
  dt := dtAfter i s
  st := stAfter i s
  halt := s.halt
  fault := s.fault
  keys := s.keys
  fb := fbAfter i s
  mem := memAfter i s
  draws := drawsAfter i s

/-- The state in which a STEP of `i` ends: that of the fault, if there is one, and otherwise the completed one. -/
def afterExec (i : Instr) (s : State) : State :=
  ((faultOf? i s).map fun c => s.latch c (encode i)).getD (completed i s)

theorem afterExec_of_fault {i : Instr} {s : State} {c : FaultCause} (h : faultOf? i s = some c) :
    afterExec i s = s.latch c (encode i) := by
  rw [afterExec, h, Option.map_some, Option.getD_some]

theorem afterExec_of_no_fault {i : Instr} {s : State} (h : faultOf? i s = none) : afterExec i s = completed i s := by
  rw [afterExec, h, Option.map_none, Option.getD_none]

/-! ## `exec` is the check and the writes -/

theorem State.stackTop_of_succ {s : State} {k : Fin 16} (h : s.sp.val = k.val + 1) : s.stackTop = s.stk[k.val] := by
  simp only [State.stackTop, h, Nat.add_sub_cancel]

theorem State.sp_sub_one_of_succ {s : State} {k : Fin 16} (h : s.sp.val = k.val + 1) : s.sp - 1 = k.castSucc := by
  have hne : s.sp ≠ 0 := fun h0 => by simp [h0] at h
  refine Fin.ext ((Fin.val_sub_one_of_ne_zero hne).trans ?_)
  rw [h, Nat.add_sub_cancel, Fin.val_castSucc]

/-- Where `SP` is not 0 there is a topmost entry. -/
theorem State.exists_sp_eq_add_one {s : State} (h : s.sp.val ≠ 0) : ∃ k : Fin 16, s.sp.val = k.val + 1 :=
  ⟨⟨s.sp.val - 1, by omega⟩, (Nat.sub_one_add_one h).symm⟩

/-- Where `SP` is not 16 there is an entry to push to. -/
theorem State.exists_sp_eq {s : State} (h : s.sp.val ≠ 16) : ∃ k : Fin 16, s.sp.val = k.val :=
  ⟨⟨s.sp.val, by omega⟩, rfl⟩

theorem exec_ret_eq (s : State) : exec .ret s = .next (afterExec .ret s) := by
  by_cases h : s.sp.val = 0
  · have hf : faultOf? .ret s = some .stackUnderflow := if_pos h
    rw [exec_ret_of_empty h, afterExec_of_fault hf]
  · have hf : faultOf? .ret s = none := if_neg h
    obtain ⟨k, hk⟩ := State.exists_sp_eq_add_one h
    rw [exec_ret_of_succ hk, afterExec_of_no_fault hf, ← State.sp_sub_one_of_succ hk, ← State.stackTop_of_succ hk]
    rfl

theorem State.sp_add_one_of_eq {s : State} {k : Fin 16} (h : s.sp.val = k.val) : s.sp + 1 = k.succ := by
  have hlt : s.sp < Fin.last 16 := by
    rw [Fin.lt_def, h]
    exact k.isLt
  refine Fin.ext ((Fin.val_add_one_of_lt hlt).trans ?_)
  rw [h, Fin.val_succ]

theorem exec_call_eq (nnn : Addr) (s : State) : exec (.call nnn) s = .next (afterExec (.call nnn) s) := by
  by_cases h : s.sp.val = 16
  · have hf : faultOf? (.call nnn) s = some .stackOverflow := if_pos h
    rw [exec_call_of_full nnn h, afterExec_of_fault hf]
  · have hf : faultOf? (.call nnn) s = none := if_neg h
    obtain ⟨k, hk⟩ := State.exists_sp_eq h
    have hstk : s.stk.setIfInBounds s.sp.val (s.pc + 2) = s.stk.set k.val (s.pc + 2) :=
      Vector.ext fun j hj => by simp only [hk, Vector.getElem_setIfInBounds, Vector.getElem_set]
    rw [exec_call_of_eq nnn hk, afterExec_of_no_fault hf, ← State.sp_add_one_of_eq hk, ← hstk]
    rfl

/-- A byte that is a key's number causes no fault and gives that key's level; any other is the fault. -/
theorem keyFault?_cases (s : State) (b : Byte) :
    (∃ k : Fin 16, b.toNat = k.val ∧ keyFault? b = none ∧ s.keyAt b = s.key k) ∨
      (15 < b.toNat ∧ keyFault? b = some .keyIndexOutOfRange) := by
  obtain ⟨k, hk, hidx⟩ | ⟨hgt, -⟩ := keyIndex?_cases b
  · exact .inl ⟨k, hk, if_neg (by omega), by simp [State.keyAt, hidx]⟩
  · exact .inr ⟨hgt, if_pos hgt⟩

theorem exec_skp_eq (x : Reg) (s : State) : exec (.skp x) s = .next (afterExec (.skp x) s) := by
  obtain ⟨k, hk, hf, hkey⟩ | ⟨hgt, hf⟩ := keyFault?_cases s (s.getV x)
  · rw [exec_skp_of_key hk, State.skipIf_advance, ← hkey, afterExec_of_no_fault (i := .skp x) hf]
    rfl
  · rw [exec_skp_of_gt hgt, afterExec_of_fault (i := .skp x) hf]

theorem exec_sknp_eq (x : Reg) (s : State) : exec (.sknp x) s = .next (afterExec (.sknp x) s) := by
  obtain ⟨k, hk, hf, hkey⟩ | ⟨hgt, hf⟩ := keyFault?_cases s (s.getV x)
  · rw [exec_sknp_of_key hk, State.skipIf_advance, ← hkey, afterExec_of_no_fault (i := .sknp x) hf]
    rfl
  · rw [exec_sknp_of_gt hgt, afterExec_of_fault (i := .sknp x) hf]

theorem exec_ldKey_eq (x : Reg) (s : State) : exec (.ldKey x) s = .next (afterExec (.ldKey x) s) := by
  rw [afterExec_of_no_fault rfl]
  cases h : s.lowestKey? with
  | none =>
    rw [exec_ldKey_of_none x h, completed, pcAfter, regsAfter, h]
    rfl
  | some k =>
    rw [exec_ldKey_of_some x h, completed, pcAfter, regsAfter, h]
    rfl

/-- A meaning that ends in a check of a range, whose completed state is `t`. -/
theorem checked_range_eq {i : Instr} {s t : State} {n : Nat} (hf : faultOf? i s = s.rangeFault? n)
    (ht : completed i s = t) : checked (s.rangeOk n) .memoryOutOfBounds i s t = .next (afterExec i s) := by
  rw [afterExec, hf, ht, State.rangeFault?]
  cases s.rangeOk n <;> rfl

/-- Everything an instruction can do, in one equation. -/
theorem exec_eq (i : Instr) (s : State) : exec i s = .next (afterExec i s) := by
  cases i with
  | ret => exact exec_ret_eq s
  | call nnn => exact exec_call_eq nnn s
  | skp x => exact exec_skp_eq x s
  | sknp x => exact exec_sknp_eq x s
  | ldKey x => exact exec_ldKey_eq x s
  | drw x y n => exact checked_range_eq rfl rfl
  | ldB x => exact checked_range_eq rfl rfl
  | loadRange x => exact checked_range_eq rfl rfl
  | storeRange x => exact checked_range_eq (by rw [s.length_regsUpTo]; rfl) rfl
  | seImm | sneImm | seReg | sneReg => exact congrArg Host.Outcome.next (s.skipIf_advance _)
  | nop | cls | jp | jpV0 | ldImm | addImm | ldReg | orReg | andReg | xorReg | addReg | subReg | shr | subnReg | shl
    | rnd | ldI | addI | ldF | ldFromDT | ldToDT | ldToST => rfl

/-- An instruction takes its fault or completes. -/
theorem exec_cases {i : Instr} {s t : State} (h : exec i s = .next t) :
    (∃ c, faultOf? i s = some c ∧ t = s.latch c (encode i)) ∨ (faultOf? i s = none ∧ t = completed i s) := by
  have ht : afterExec i s = t := Host.Outcome.next.inj ((exec_eq i s).symm.trans h)
  subst ht
  cases hf : faultOf? i s with
  | none => exact .inr ⟨rfl, afterExec_of_no_fault hf⟩
  | some c => exact .inl ⟨c, rfl, afterExec_of_fault hf⟩

theorem exec_of_fault {i : Instr} {s : State} {c : FaultCause} (h : faultOf? i s = some c) :
    exec i s = .next (s.latch c (encode i)) := by
  rw [exec_eq, afterExec_of_fault h]

theorem exec_of_no_fault {i : Instr} {s : State} (h : faultOf? i s = none) : exec i s = .next (completed i s) := by
  rw [exec_eq, afterExec_of_no_fault h]

/-! ## What the checks can answer -/

/-- No check answers the cause of an empty record. -/
theorem faultOf?_ne_none {i : Instr} {s : State} {c : FaultCause} (h : faultOf? i s = some c) : c ≠ .none := by
  rintro rfl
  unfold faultOf? State.rangeFault? keyFault? at h
  split at h
  case h_9 => cases h
  all_goals split_ifs at h
  all_goals cases h

/-- An instruction with a check is one of the eight of R190. -/
theorem faultOf?_of_canFault_eq_false {i : Instr} (h : canFault i = false) (s : State) : faultOf? i s = none := by
  unfold faultOf?
  split
  case h_9 => rfl
  all_goals cases h

end Sys2Proof.Machine
end

section
/-!
The STEP and the latch (spec/45_host_commands.md R172 to R175, spec/60_exceptions.md R190, R196 to R198, R201): every STEP
has a next state, which is the decoded instruction's or differs from the old one in the latch alone.
-/

namespace Sys2Proof.Machine

/-! ## The STEP -/

/-- Settles O7: the fetch forms the word of the two bytes, and STEP runs what it decodes to. -/
theorem stepRunsTheDecodedInstruction : Obligations.StepRunsTheDecodedInstruction :=
  fun s _ hrun hpc hdec => step_of_decode hrun (s.fetch?_of_le hpc) hdec

/-- Settles O9, by the fetch that finds no word. -/
theorem fetchOutsideMemoryFaults : Obligations.FetchOutsideMemoryFaults :=
  fun s hrun hpc => ⟨_, step_fetch_fault hrun hpc, faultedFrom_latch s _ _⟩

/-- A word that is not well formed selects no row, and the decoder refuses it. -/
theorem decode_of_not_wellFormedWord {op : Word} (h : wellFormedWord op = false) :
    decode op = .error (.unrecognizedOpcode op) := by
  have hnone : ∀ r ∈ opcodeTable, r.selects op = false := by simpa [wellFormedWord] using h
  exact (decodeSelectsTheRow op).2.1 hnone

/-- Settles O10: the decoder refuses the word fetched. -/
theorem unrecognizedOpcodeFaults : Obligations.UnrecognizedOpcodeFaults := by
  intro s op hrun hpc hop hwf
  have hfetch : s.fetch? = some op := hop ▸ s.fetch?_of_le hpc
  exact ⟨_, step_of_reject hrun hfetch (decode_of_not_wellFormedWord hwf), faultedFrom_latch s _ _⟩

/-- No STEP stops the model (log entry 9). -/
theorem step_completes (s : State) : ∃ t, step s = .next t := by
  cases hh : s.halt
  · by_cases hpc : s.pc.toNat ≤ 0xFFE
    · have hfetch := s.fetch?_of_le hpc
      cases hd : decode (wordOf (s.mem.read s.pc.toNat) (s.mem.read (s.pc.toNat + 1))) with
      | error e => exact ⟨_, step_of_reject hh hfetch hd⟩
      | ok i => exact ⟨_, (step_of_decode hh hfetch hd).trans (exec_eq i s)⟩
    · exact ⟨_, step_fetch_fault hh (Nat.lt_of_not_le hpc)⟩
  · exact ⟨s, step_halted hh⟩

/-- Settles O13: an instruction that completes keeps `HALT`, so the STEP has taken one of its three kinds of fault, and the
word of the instruction is the word fetched. -/
theorem faultsArePrecise : Obligations.FaultsArePrecise := by
  intro s t hrun hstep ht
  obtain ⟨hhalt, -⟩ | ⟨-, hpc, rfl⟩ | ⟨op, e, -, hfetch, -, rfl⟩ | ⟨op, i, -, hfetch, hdec, hexec⟩ :=
    step_cases hstep
  · cases hrun.symm.trans hhalt
  · exact ⟨_, _, by simp, faultedFrom_latch s _ _, fun _ => ⟨rfl, rfl⟩, fun hle => by omega⟩
  · obtain ⟨hpc, hop⟩ := State.fetch?_eq_some hfetch
    exact ⟨_, _, by simp, faultedFrom_latch s _ _, fun hgt => by omega, fun _ => hop⟩
  · obtain ⟨hpc, hop⟩ := State.fetch?_eq_some hfetch
    obtain ⟨c, hf, rfl⟩ | ⟨-, rfl⟩ := exec_cases hexec
    · refine ⟨c, _, faultOf?_ne_none hf, faultedFrom_latch s _ _, fun hgt => by omega, fun _ => ?_⟩
      exact (encode_of_decode hdec).trans hop
    · cases hrun.symm.trans ht

/-- Settles O15: the checks are those of the eight other instructions, and a completed instruction keeps the latch. -/
theorem twentySevenInstructionsNeverFault : Obligations.TwentySevenInstructionsNeverFault :=
  fun i s hi => ⟨completed i s, exec_of_no_fault (faultOf?_of_canFault_eq_false hi s), rfl, rfl⟩

/-! ## The commands -/

theorem command_step {s t : State} (h : step s = .next t) : command .step s = .next (t, stepResponse t) := by
  rw [command, h]

/-- Settles O11: a halted STEP answers its state, and the response to a halted state is its record. -/
theorem haltedStepRepeatsTheRecord : Obligations.HaltedStepRepeatsTheRecord := by
  intro s hhalt
  rw [command_step (step_halted hhalt), stepResponse, if_pos hhalt]

/-- Settles O12: every command but STEP is a next state by definition, and every STEP has one. -/
theorem everyCommandCompletes : Obligations.EveryCommandCompletes := by
  intro c s
  cases c with
  | step =>
    obtain ⟨t, ht⟩ := step_completes s
    exact ⟨t, _, command_step ht⟩
  | reset | load | setKey | tick | display => exact ⟨_, _, rfl⟩

/-- LOAD writes memory alone, whether or not the image fits. -/
theorem load_frame (bytes : List Byte) (s : State) : (load bytes s).1 = { s with mem := (load bytes s).1.mem } := by
  unfold load
  split_ifs <;> rfl

/-- Settles O14: a halted STEP changes nothing, and the other commands but RESET write items that are not the latch. -/
theorem onlyResetClearsTheLatch : Obligations.OnlyResetClearsTheLatch := by
  refine ⟨fun c s t r hhalt hc hcmd => ?_, fun s => ⟨s.afterReset, .none, rfl, rfl⟩⟩
  cases c with
  | reset => exact absurd rfl hc
  | step =>
    cases (command_step (step_halted hhalt)).symm.trans hcmd
    exact ⟨hhalt, rfl⟩
  | load bytes =>
    obtain rfl : (load bytes s).1 = t := congrArg Prod.fst (Host.Outcome.next.inj hcmd)
    rw [load_frame]
    exact ⟨hhalt, rfl⟩
  | setKey index pressed =>
    cases hcmd
    rw [State.setKey_frame]
    exact ⟨hhalt, rfl⟩
  | tick | display =>
    cases hcmd
    exact ⟨hhalt, rfl⟩

end Sys2Proof.Machine
end

section
/-!
The writers of each item of state (spec/10_state.md sections 2 to 7): a fault writes none of them, and what a completed
instruction leaves in an item is the item itself but for the writers its function names.
-/

namespace Sys2Proof.Machine

theorem writer_of_indexAfter_ne {i : Instr} {s : State} (h : indexAfter i s ≠ s.i) :
    (∃ nnn, i = .ldI nnn) ∨ ∃ x, i = .addI x ∨ i = .ldF x := by
  unfold indexAfter at h
  split at h
  · exact .inl ⟨_, rfl⟩
  · exact .inr ⟨_, .inl rfl⟩
  · exact .inr ⟨_, .inr rfl⟩
  · exact absurd rfl h

theorem writer_of_spAfter_ne {i : Instr} {s : State} (h : spAfter i s ≠ s.sp) :
    i = .ret ∨ ∃ nnn, i = .call nnn := by
  unfold spAfter at h
  split at h
  · exact .inl rfl
  · exact .inr ⟨_, rfl⟩
  · exact absurd rfl h

theorem writer_of_stackAfter_ne {i : Instr} {s : State} (h : stackAfter i s ≠ s.stk) : ∃ nnn, i = .call nnn := by
  unfold stackAfter at h
  split at h
  · exact ⟨_, rfl⟩
  · exact absurd rfl h

theorem writer_of_dtAfter_ne {i : Instr} {s : State} (h : dtAfter i s ≠ s.dt) : ∃ x, i = .ldToDT x := by
  unfold dtAfter at h
  split at h
  · exact ⟨_, rfl⟩
  · exact absurd rfl h

theorem writer_of_stAfter_ne {i : Instr} {s : State} (h : stAfter i s ≠ s.st) : ∃ x, i = .ldToST x := by
  unfold stAfter at h
  split at h
  · exact ⟨_, rfl⟩
  · exact absurd rfl h

theorem writer_of_fbAfter_ne {i : Instr} {s : State} (h : fbAfter i s ≠ s.fb) :
    i = .cls ∨ ∃ x y n, i = .drw x y n := by
  unfold fbAfter at h
  split at h
  · exact .inl rfl
  · exact .inr ⟨_, _, _, rfl⟩
  · exact absurd rfl h

theorem writer_of_memAfter_ne {i : Instr} {s : State} (h : memAfter i s ≠ s.mem) :
    ∃ x, i = .ldB x ∨ i = .storeRange x := by
  unfold memAfter at h
  split at h
  · exact ⟨_, .inl rfl⟩
  · exact ⟨_, .inr rfl⟩
  · exact absurd rfl h

theorem writer_of_drawsAfter_ne {i : Instr} {s : State} (h : drawsAfter i s ≠ s.draws) : ∃ x nn, i = .rnd x nn := by
  unfold drawsAfter at h
  split at h
  · exact ⟨_, _, rfl⟩
  · exact absurd rfl h

/-- Settles O57: one clause for each item, by the writers of that item. -/
theorem stateHasItsOwnWriters : Obligations.StateHasItsOwnWriters := by
  intro i s t hexec
  obtain ⟨c, -, rfl⟩ | ⟨-, rfl⟩ := exec_cases hexec
  · have hkeep {α : Type} {a : α} {p : Prop} (h : a ≠ a) : p := absurd rfl h
    exact ⟨rfl, hkeep, fun h => h.elim hkeep hkeep, hkeep, hkeep, hkeep, hkeep, hkeep⟩
  · exact ⟨rfl, writer_of_indexAfter_ne,
      fun h => h.elim writer_of_spAfter_ne fun h => .inr (writer_of_stackAfter_ne h),
      writer_of_dtAfter_ne, writer_of_stAfter_ne, writer_of_fbAfter_ne, writer_of_memAfter_ne,
      writer_of_drawsAfter_ne⟩

/-! ## The flag register -/

section Flag

variable {i : Instr} {s : State} (hne : (completed i s).getV regVF ≠ s.getV regVF)
include hne

/-- A write of one register changes VF only where it is that register. -/
theorem eq_regVF_of_regsAfter_eq_setV {x : Reg} {b : Byte} (h : regsAfter i s = (s.setV x b).v) : x = regVF := by
  by_contra hx
  have hkeep : (s.setV x b).getV regVF = s.getV regVF := s.getV_setV_ne b (Ne.symm hx)
  exact hne (by rwa [State.getV, completed, h])

/-- A range load changes VF only where it reaches register 15. -/
theorem eq_regVF_of_regsAfter_eq_loaded {x : Reg} (h : regsAfter i s = (s.loaded x).v) : x = regVF := by
  by_contra hx
  have hle : ¬regVF ≤ x := fun hle => hx (le_antisymm (Fin.le_last x) hle)
  have hkeep : (s.loaded x).getV regVF = s.getV regVF := by rw [s.getV_loaded, if_neg hle]
  exact hne (by rwa [State.getV, completed, h])

end Flag

/-- The key wait writes one register, or none. -/
theorem regsAfter_ldKey_cases (x : Reg) (s : State) :
    regsAfter (.ldKey x) s = s.v ∨ ∃ b, regsAfter (.ldKey x) s = (s.setV x b).v := by
  cases h : s.lowestKey? with
  | none => exact .inl (by rw [regsAfter, h]; rfl)
  | some k => exact .inr ⟨BitVec.ofNat 8 k.val, by rw [regsAfter, h]; rfl⟩

/-- Settles O30: the five ALU instructions with a flag and the draw write VF whatever their operands; the others that write
registers write one, or a range from `V[0]` up, and so VF only as the operand that names it. -/
theorem onlyNamedInstructionsChangeFlag : Obligations.OnlyNamedInstructionsChangeFlag := by
  intro i s t hexec hne
  obtain ⟨c, -, rfl⟩ | ⟨-, rfl⟩ := exec_cases hexec
  · exact absurd rfl hne
  cases i with
  | addReg x y | subReg x y | shr x y | subnReg x y | shl x y => exact .inl ⟨x, y, by simp⟩
  | drw x y n => exact .inr (.inl ⟨x, y, n, rfl⟩)
  | ldImm | addImm | rnd | ldReg | orReg | andReg | xorReg | ldFromDT =>
    obtain rfl := eq_regVF_of_regsAfter_eq_setV hne rfl
    simp
  | ldKey x =>
    obtain h | ⟨b, h⟩ := regsAfter_ldKey_cases x s
    · exact absurd (congrArg (fun v : Vector Byte 16 => v[regVF.val]) h) hne
    · obtain rfl := eq_regVF_of_regsAfter_eq_setV hne h
      simp
  | loadRange x =>
    obtain rfl := eq_regVF_of_regsAfter_eq_loaded hne rfl
    simp
  | nop | cls | ret | jp | call | seImm | sneImm | seReg | sneReg | ldI | jpV0 | skp | sknp | ldToDT | ldToST | addI
    | ldF | ldB | storeRange => exact absurd rfl hne

end Sys2Proof.Machine
end

section
/-!
What no instruction depends on (spec/10_state.md R16, R17; spec/45_host_commands.md R174): a change of the sound timer, of
the count of draws or of the dead stack entries before an instruction is the same change after it, or is overwritten.
-/

namespace Sys2Proof.Machine

/-! ## The sound timer -/

theorem faultOf?_with_st (i : Instr) (s : State) (b : Byte) : faultOf? i { s with st := b } = faultOf? i s := by
  cases i <;> rfl

theorem completed_with_st {i : Instr} (hi : ∀ x, i ≠ .ldToST x) (s : State) (b : Byte) :
    completed i { s with st := b } = { completed i s with st := b } := by
  cases i
  case ldToST x => exact absurd rfl (hi x)
  all_goals rfl

/-- Settles O58: neither the check nor what is written depends on `ST`, and `LD ST, Vx` overwrites it. -/
theorem soundTimerIsNeverRead : Obligations.SoundTimerIsNeverRead := by
  intro i s t b hexec
  have hcheck := faultOf?_with_st i s b
  refine ⟨fun hi => ?_, ?_⟩
  · obtain ⟨c, hf, rfl⟩ | ⟨hf, rfl⟩ := exec_cases hexec
    · exact ⟨rfl, exec_of_fault (hcheck.trans hf)⟩
    · refine ⟨?_, ?_⟩
      · by_contra hne
        obtain ⟨x, hx⟩ := writer_of_stAfter_ne hne
        exact hi x hx
      · rw [exec_of_no_fault (hcheck.trans hf), completed_with_st hi]
  · rintro x rfl
    exact hexec

/-! ## The count of draws -/

theorem faultOf?_with_draws (i : Instr) (s : State) (d : Nat) : faultOf? i { s with draws := d } = faultOf? i s := by
  cases i <;> rfl

theorem completed_with_draws {i : Instr} (hi : ∀ x nn, i ≠ .rnd x nn) (s : State) (d : Nat) :
    completed i { s with draws := d } = { completed i s with draws := d } := by
  cases i
  case rnd x nn => exact absurd rfl (hi x nn)
  all_goals rfl

/-- Settles O60: neither the check nor what is written depends on the count, and only `RND` counts on. -/
theorem onlyRandomTakesDraws : Obligations.OnlyRandomTakesDraws := by
  intro i s t d hi hexec
  have hcheck := faultOf?_with_draws i s d
  obtain ⟨c, hf, rfl⟩ | ⟨hf, rfl⟩ := exec_cases hexec
  · exact ⟨rfl, exec_of_fault (hcheck.trans hf)⟩
  · refine ⟨?_, ?_⟩
    · by_contra hne
      obtain ⟨x, nn, hx⟩ := writer_of_drawsAfter_ne hne
      exact hi x nn hx
    · rw [exec_of_no_fault (hcheck.trans hf), completed_with_draws hi]

/-! ## The dead stack entries -/

theorem faultOf?_with_stk (i : Instr) (s : State) (stk : Vector Word 16) :
    faultOf? i { s with stk := stk } = faultOf? i s := by
  cases i <;> rfl

/-- Only the return reads the stack, and only the call writes it. -/
theorem completed_with_stk {i : Instr} (hret : i ≠ .ret) (hcall : ∀ nnn, i ≠ .call nnn) (s : State)
    (stk : Vector Word 16) : completed i { s with stk := stk } = { completed i s with stk := stk } := by
  cases i
  case ret => exact absurd rfl hret
  case call nnn => exact absurd rfl (hcall nnn)
  all_goals rfl

/-- A fault leaves the stack alone. -/
theorem SameButDeadStack.latch {s u : State} (h : SameButDeadStack s u) (c : FaultCause) (op : Word) :
    SameButDeadStack (s.latch c op) (u.latch c op) := by
  obtain ⟨hu, hlive⟩ := h
  exact ⟨congrArg (State.latch · c op) hu, hlive⟩

section DeadStack

variable {s : State} {stk : Vector Word 16} (hlive : ∀ k : Fin 16, k.val < s.sp.val → stk[k.val] = s.stk[k.val])
include hlive

/-- The return reads the topmost live entry, and one entry fewer is live after it. -/
theorem sameButDeadStack_completed_ret (hf : faultOf? .ret s = none) :
    SameButDeadStack (completed .ret s) (completed .ret { s with stk := stk }) := by
  have hpos : s.sp.val ≠ 0 := fun h0 => by simp [faultOf?, h0] at hf
  obtain ⟨k, hk⟩ := State.exists_sp_eq_add_one hpos
  have htop : ({ s with stk := stk } : State).stackTop = s.stackTop :=
    calc ({ s with stk := stk } : State).stackTop
      _ = stk[k.val] := State.stackTop_of_succ (s := { s with stk := stk }) hk
      _ = s.stk[k.val] := hlive k (by omega)
      _ = s.stackTop := (State.stackTop_of_succ hk).symm
  have hsp : (completed .ret s).sp.val = k.val := congrArg Fin.val (State.sp_sub_one_of_succ hk)
  refine ⟨?_, fun j hj => hlive j (by omega)⟩
  rw [completed, pcAfter, htop]
  rfl

/-- The call writes the lowest dead entry, the one that is live after it. -/
theorem sameButDeadStack_completed_call {nnn : Addr} (hf : faultOf? (.call nnn) s = none) :
    SameButDeadStack (completed (.call nnn) s) (completed (.call nnn) { s with stk := stk }) := by
  have hroom : s.sp.val ≠ 16 := fun h16 => by simp [faultOf?, h16] at hf
  obtain ⟨k, hk⟩ := State.exists_sp_eq hroom
  have hsp : (completed (.call nnn) s).sp.val = k.val + 1 := congrArg Fin.val (State.sp_add_one_of_eq hk)
  refine ⟨rfl, fun j hj => ?_⟩
  simp only [completed, stackAfter, Vector.getElem_setIfInBounds]
  split_ifs with hj'
  · rfl
  · exact hlive j (by omega)

theorem sameButDeadStack_completed {i : Instr} (hf : faultOf? i s = none) :
    SameButDeadStack (completed i s) (completed i { s with stk := stk }) := by
  by_cases hret : i = .ret
  · subst hret
    exact sameButDeadStack_completed_ret hlive hf
  by_cases hcall : ∃ nnn, i = .call nnn
  · obtain ⟨nnn, rfl⟩ := hcall
    exact sameButDeadStack_completed_call hlive hf
  · have hsp : (completed i s).sp = s.sp := by
      by_contra hne
      exact (writer_of_spAfter_ne hne).elim hret hcall
    have hstk : (completed i s).stk = s.stk := by
      by_contra hne
      exact hcall (writer_of_stackAfter_ne hne)
    rw [completed_with_stk hret (not_exists.mp hcall) s stk]
    refine ⟨rfl, fun k hk => ?_⟩
    rw [hsp] at hk
    simpa only [hstk] using hlive k hk

end DeadStack

/-- Settles O59: the fetch and the check do not read the stack, and each kind of next state keeps the relation. -/
theorem deadStackEntriesAreNeverRead : Obligations.DeadStackEntriesAreNeverRead := by
  intro s u t hsame hstep
  obtain ⟨hhalt, rfl⟩ | ⟨hrun, hpc, rfl⟩ | ⟨op, e, hrun, hfetch, hdec, rfl⟩ | ⟨op, i, hrun, hfetch, hdec, hexec⟩ :=
    step_cases hstep
  all_goals
    have hu := hsame.1
    have hlive := hsame.2
    generalize u.stk = stk at hu hlive
    subst hu
  · exact ⟨_, step_halted hhalt, hsame⟩
  · exact ⟨_, step_fetch_fault hrun hpc, hsame.latch _ _⟩
  · exact ⟨_, step_of_reject hrun hfetch hdec, hsame.latch _ _⟩
  · have hcheck := faultOf?_with_stk i s stk
    rw [step_of_decode (s := { s with stk := stk }) hrun hfetch hdec]
    obtain ⟨c, hf, rfl⟩ | ⟨hf, rfl⟩ := exec_cases hexec
    · exact ⟨_, exec_of_fault (hcheck.trans hf), hsame.latch _ _⟩
    · exact ⟨_, exec_of_no_fault (hcheck.trans hf), sameButDeadStack_completed hlive hf⟩

end Sys2Proof.Machine
end

section
/-!
The invariant of every state a host can bring about (spec/10_state.md R14, R16, R18, R22): it holds at reset, every STEP
keeps it, and so does every other command and every sequence of commands.
-/

namespace Sys2Proof.Machine

/-! ## At reset -/

theorem State.inv_reset : State.reset.Inv := by
  have hstack : State.reset.StackBounded := fun k => by
    change ((Vector.replicate 16 0x0000#16)[k.val]).toNat ≤ 0x1000
    rw [Vector.getElem_replicate]
    decide
  have hpc : State.reset.pc.toNat ≤ 0x10FE := by decide
  exact ⟨Memory.wf_reset, hpc, hstack, fun _ => rfl, fun h => absurd h Bool.false_ne_true⟩

/-- Settles O54: the invariant of the reset state, whose latch is empty by definition. -/
theorem invariantHoldsAtReset : Obligations.InvariantHoldsAtReset :=
  ⟨State.inv_reset, rfl, rfl⟩

/-! ## The items of a completed instruction -/

/-- A store that passes its check writes inside memory. -/
theorem wf_writeBytes_of_rangeFault? {s : State} {n : Nat} {bs : List Byte} (hmem : s.mem.wf = true)
    (hlen : bs.length = n + 1) (hf : s.rangeFault? (n + 1) = none) : (s.mem.writeBytes (s.effAddr 0) bs).wf = true := by
  have hok : s.rangeOk (n + 1) = true := by simpa [State.rangeFault?] using hf
  rw [s.rangeOk_succ, decide_eq_true_iff] at hok
  refine Memory.wf_writeBytes s.mem _ bs hmem ?_
  simp only [State.effAddr, Config.memSize] at hok ⊢
  omega

theorem wf_memAfter {i : Instr} {s : State} (hmem : s.mem.wf = true) (hf : faultOf? i s = none) :
    (memAfter i s).wf = true := by
  unfold memAfter
  split
  · exact wf_writeBytes_of_rangeFault? hmem (length_decimalDigits _) hf
  · exact wf_writeBytes_of_rangeFault? hmem (s.length_regsUpTo _) hf
  · exact hmem

/-- After a fetch, which needs `pc0 <= 0xFFE`, neither the advance nor a skip wraps, and no target is above 0x10FE. -/
theorem toNat_pcAfter_le {s : State} (hpc : s.pc.toNat ≤ 0xFFE) (hstack : s.StackBounded) (i : Instr) :
    (pcAfter i s).toNat ≤ 0x10FE := by
  have hnext : (s.pc + 2).toNat ≤ 0x10FE := by bv_omega
  have hskip : (s.pc + 4).toNat ≤ 0x10FE := by bv_omega
  unfold pcAfter
  split
  case h_1 =>
    have htop : s.stackTop.toNat ≤ 0x1000 := hstack ⟨s.sp.val - 1, by omega⟩
    omega
  case h_2 nnn | h_3 nnn =>
    rw [toNat_zextAddr]
    omega
  case h_4 nnn =>
    rw [toNat_zextByte_add_zextAddr]
    omega
  case h_5 =>
    split_ifs
    · exact hnext
    · omega
  case h_6 =>
    split_ifs
    · exact hskip
    · exact hnext

/-- The entry a call pushes is `pc0 + 2`, at most 0x1000 after a fetch. -/
theorem toNat_stackAfter_le {s : State} (hpc : s.pc.toNat ≤ 0xFFE) (hstack : s.StackBounded) (i : Instr)
    (k : Fin 16) : ((stackAfter i s)[k.val]).toNat ≤ 0x1000 := by
  unfold stackAfter
  split
  · rw [Vector.getElem_setIfInBounds]
    split_ifs
    · bv_omega
    · exact hstack k
  · exact hstack k

/-! ## The STEP -/

theorem State.Inv.completed {i : Instr} {s : State} (h : s.Inv) (hrun : s.Running) (hpc : s.pc.toNat ≤ 0xFFE)
    (hf : faultOf? i s = none) : (completed i s).Inv := by
  obtain ⟨hmem, -, hstack, hnone, -⟩ := h
  exact ⟨wf_memAfter hmem hf, toNat_pcAfter_le hpc hstack i, toNat_stackAfter_le hpc hstack i, hnone,
    fun hhalt => absurd (hrun.symm.trans hhalt) Bool.false_ne_true⟩

/-- A fault writes the latch alone, and writes it consistently. -/
theorem State.Inv.latch {s : State} (h : s.Inv) {c : FaultCause} (hc : c ≠ .none) (op : Word) :
    (s.latch c op).Inv := by
  obtain ⟨hmem, hpc, hstack, -⟩ := h
  exact ⟨hmem, hpc, hstack, fun hrun => absurd hrun (by simp), fun _ => ⟨hc, rfl⟩⟩

/-- Settles O55, by the four cases of a STEP. -/
theorem stepKeepsInvariant : Obligations.StepKeepsInvariant := by
  intro s t hinv hstep
  obtain ⟨-, rfl⟩ | ⟨-, -, rfl⟩ | ⟨op, e, -, -, -, rfl⟩ | ⟨op, i, hrun, hfetch, -, hexec⟩ := step_cases hstep
  · exact hinv
  · exact hinv.latch (by simp) _
  · exact hinv.latch (by simp) _
  · obtain ⟨c, hf, rfl⟩ | ⟨hf, rfl⟩ := exec_cases hexec
    · exact hinv.latch (faultOf?_ne_none hf) _
    · exact hinv.completed hrun (State.fetch?_eq_some hfetch).1 hf

/-! ## The commands -/

/-- An image that LOAD accepts ends at 0x1000 at the latest. -/
theorem State.Inv.load {s : State} (h : s.Inv) (bytes : List Byte) : (load bytes s).1.Inv := by
  unfold Machine.load
  split_ifs with hlen
  · exact h
  · obtain ⟨hmem, hrest⟩ := h
    refine ⟨Memory.wf_writeBytes s.mem _ bytes hmem ?_, hrest⟩
    simp only [Config.progMax, Config.progBase, Config.memSize] at hlen ⊢
    omega

theorem command_step_cases {s t : State} {r : Response} (h : command .step s = .next (t, r)) : step s = .next t := by
  obtain ⟨u, hu⟩ := step_completes s
  cases (command_step hu).symm.trans h
  exact hu

/-- RESET starts the invariant again, LOAD and STEP keep it, and the others write items it does not mention. -/
theorem State.Inv.command {c : Command} {s t : State} {r : Response} (h : s.Inv) (hcmd : command c s = .next (t, r)) :
    t.Inv := by
  cases c with
  | step => exact stepKeepsInvariant s t h (command_step_cases hcmd)
  | reset =>
    cases hcmd
    exact State.inv_reset
  | load bytes =>
    obtain rfl : (Machine.load bytes s).1 = t := congrArg Prod.fst (Host.Outcome.next.inj hcmd)
    exact h.load bytes
  | setKey index pressed =>
    cases hcmd
    rw [State.setKey_frame]
    exact h
  | tick | display =>
    cases hcmd
    exact h

/-- A run of a command and more is the command and a run of the others. -/
theorem runCommands_cons_cases {c : Command} {cs : List Command} {s u : State} {rs : List Response}
    (h : runCommands (c :: cs) s = .next (u, rs)) :
    ∃ t r qs, Machine.command c s = .next (t, r) ∧ runCommands cs t = .next (u, qs) := by
  obtain ⟨t, r, hcmd⟩ := everyCommandCompletes c s
  simp only [runCommands, hcmd] at h
  cases hrun : runCommands cs t with
  | next p =>
    rw [hrun] at h
    cases h
    exact ⟨t, r, p.2, hcmd, hrun⟩
  | fault f | refused f =>
    rw [hrun] at h
    cases h

/-- Settles O56, by induction on the commands. -/
theorem everyScheduleKeepsInvariant : Obligations.EveryScheduleKeepsInvariant := by
  intro cs
  induction cs with
  | nil =>
    intro s t rs hinv hrun
    cases hrun
    exact hinv
  | cons c cs ih =>
    intro s u rs hinv hrun
    obtain ⟨t, r, qs, hcmd, hrest⟩ := runCommands_cons_cases hrun
    exact ih t u qs (hinv.command hcmd) hrest

end Sys2Proof.Machine
end
